-- ==== Sys2Proof/Word.lean ====
section
/-! DEFINITION. Word types of the codec: one name per width of 00_scope.md R6. Bit 0 is the least significant
bit of every value (R8), and every value is unsigned (R10). -/

namespace Sys2Proof

/-- The operation select, `W_OP = 2` (R6, 30_encoding.md R47). -/
abbrev OpSelect := BitVec 2

/-- The nibble index as it arrives on its port, `W_INDEX = 8` (R6, R47). -/
abbrev Index := BitVec 8

/-- A 64-bit source or decoded value, `W_SOURCE = W_RESULT = 64` (R6, 10_state.md R23). -/
abbrev Source := BitVec 64

/-- A Crumb, `W_CRUMB = 8`: all 256 values are well formed (10_state.md R21, R22). -/
abbrev Crumb := BitVec 8

/-- A nibble, `W_NIBBLE = 4` (R6). -/
abbrev Nibble := BitVec 4

/-- One of the `N_BYTES = 8` bytes of a 64-bit value (R6, 20_memory.md R32). -/
abbrev Byte := BitVec 8

end Sys2Proof
end

