-- ==== Sys2Proof/Syntax.lean ====
section
/-! DEFINITION. The request format REQ (30_encoding.md R47) and the operations as syntax: one constructor for each row of
spec/opcode_table.json, holding the operands that operation reads (R51). -/

namespace Sys2Proof

/-- Format REQ: the four input ports, which together form one request (10_state.md R24, 30_encoding.md R47).
Every bit of a port is a defined 0 or 1 (R26). -/
structure Request where
  op     : OpSelect
  index  : Index
  source : Source
  crumb  : Crumb
deriving DecidableEq, Repr

/-- The four operations with the operands they read (30_encoding.md R50, R51). -/
inductive Instr where
  /-- ENCODE, the checked encode (40_encode.md R68). -/
  | encode (index : Index) (source : Source)
  /-- ENCODE_UNCHECKED, with the precondition index < 16 (40_encode.md R69). -/
  | encodeUnchecked (index : Index) (source : Source)
  /-- DECODE (41_decode.md R80). -/
  | decode (crumb : Crumb)
  /-- RAW (42_raw.md R81). -/
  | raw (crumb : Crumb)
deriving DecidableEq, Repr

end Sys2Proof
end

