-- ==== Sys2Proof/Decode.lean ====
section
/-! DEFINITION. The request decoder (30_encoding.md R50 to R52), the encoder back to a request (R58), and the layout of a
request as one table word (log 5). -/

namespace Sys2Proof

/-- Selects the operation from `op` alone and takes the operands it reads. All four values of `op` are used, so the
decoder is total and has nothing to reject (R50, R51, R52, R57). -/
def decodeRequest (q : Request) : Instr :=
  match (q.op.toFin : Fin 4) with
  | 0 => .encode q.index q.source
  | 1 => .encodeUnchecked q.index q.source
  | 2 => .decode q.crumb
  | 3 => .raw q.crumb

/-- The full request of an operation: `op` by R50, and the ignored fields taken as 0 (R58). -/
def encodeRequest : Instr → Request
  | .encode index source => { op := 0b00, index, source, crumb := 0 }
  | .encodeUnchecked index source => { op := 0b01, index, source, crumb := 0 }
  | .decode crumb => { op := 0b10, index := 0, source := 0, crumb }
  | .raw crumb => { op := 0b11, index := 0, source := 0, crumb }

/-- A request laid out as one word of eleven bytes, each port on whole bytes in R47's order: `op` in bits 1:0 (where
spec/opcode_table.json numbers it), `index` in 15:8, `source` in 79:16, `crumb` in 87:80. DESIGN CHOICE (log 5):
the spec gives each field its own port and no packed word. -/
abbrev TableWord := BitVec 88

/-- The ports a table word drives. Bits 7:2 are no port and select nothing (R52). -/
def Request.ofTableWord (w : TableWord) : Request where
  op     := w.extractLsb' 0 2
  index  := w.extractLsb' 8 8
  source := w.extractLsb' 16 64
  crumb  := w.extractLsb' 80 8

/-- The table word of a request, bits 7:2 written as 0. -/
def Request.toTableWord (q : Request) : TableWord :=
  q.crumb ++ q.source ++ q.index ++ (0#6 ++ q.op)

/-- The decoder on table words: total, and by `op` alone. -/
def decode (w : TableWord) : Instr := decodeRequest (Request.ofTableWord w)

/-- The encoder to table words. -/
def encode (i : Instr) : TableWord := (encodeRequest i).toTableWord

/-- The table word whose low `nbits` bits are those of `w` and whose other bits are 0. -/
def tableWordOf (nbits w : Nat) : TableWord := BitVec.ofNat 88 (w % 2 ^ nbits)

/-- The instruction the decoder reads from a word numbered as spec/opcode_table.json numbers it. -/
def decodeTableWord (nbits w : Nat) : Option Instr := some (decode (tableWordOf nbits w))

end Sys2Proof
end

