-- ==== Sys2Proof/Machine/Operands.lean ====
section
/-! DEFINITION. Operand assembly: the byte and nibble views of a 64-bit value (20_memory.md R32, R33), the values derived
from the index operand (30_encoding.md R53) and the fields of a Crumb (R55). -/

namespace Sys2Proof.Machine

/-- Byte `k` of a 64-bit value, `v[8k+7:8k]` (20_memory.md R32). -/
def byteAt (v : Source) (k : Nat) : Byte := v.extractLsb' (8 * k) 8

/-- Nibble `i` of a 64-bit value, `v[4i+3:4i]` (20_memory.md R33, 10_state.md R23). -/
def nibbleAt (v : Source) (i : Nat) : Nibble := v.extractLsb' (4 * i) 4

/-- `LE64(buf)`: byte 0 is the least significant (20_memory.md R32, 00_scope.md R12). -/
def le64 (buf : Vector Byte 8) : Source :=
  buf[7] ++ buf[6] ++ buf[5] ++ buf[4] ++ buf[3] ++ buf[2] ++ buf[1] ++ buf[0]

/-- `valid = (idx[7:4] == 0b0000)` (30_encoding.md R53). -/
def indexValid (idx : Index) : Bool := idx.extractLsb' 4 4 == 0b0000#4

/-- `bsel = idx[3:1]`, the target byte of a valid index (R53). -/
def indexByte (idx : Index) : BitVec 3 := idx.extractLsb' 1 3

/-- `par = idx[0]` (R53). -/
def indexParity (idx : Index) : BitVec 1 := idx.extractLsb' 0 1

/-- The encode shift amount `par * 4`, 0 or 4 (R53). -/
def indexShift (idx : Index) : Nat := (indexParity idx).toNat * 4

/-- `idx[3:0]`, the index field of the Crumb (R53). -/
def indexField (idx : Index) : Nibble := idx.extractLsb' 0 4

/-- `cidx = c[7:4]` (30_encoding.md R55, 10_state.md R21). -/
def crumbIndex (c : Crumb) : Nibble := c.extractLsb' 4 4

/-- `cdata = c[3:0]` (R55, R21). -/
def crumbData (c : Crumb) : Nibble := c.extractLsb' 0 4

/-- `cbsel = cidx[3:1]` (R55). -/
def crumbByte (c : Crumb) : BitVec 3 := (crumbIndex c).extractLsb' 1 3

/-- `cpar = cidx[0]` (R55). -/
def crumbParity (c : Crumb) : BitVec 1 := (crumbIndex c).extractLsb' 0 1

/-- `{a, b}` of two nibbles is a Crumb with `a` as its index field (10_state.md R21, 00_scope.md R9). -/
def mkCrumb (idx data : Nibble) : Crumb := idx ++ data

/-- Result packing of an 8-bit value: `zext_64(v8)` (30_encoding.md R56). -/
def packByte (v8 : Byte) : BitVec 64 := v8.setWidth 64

end Sys2Proof.Machine
end

