-- ==== Sys2Proof/Machine/Flags.lean ====
section
/-! DEFINITION. The one flag of the block, the response bit `err_invalid_index`, and the bounds test behind it. No flag is
stored (10_state.md R18). -/

namespace Sys2Proof.Machine

/-- `err_invalid_index = 0`: no error (30_encoding.md R48). -/
def errNone : BitVec 1 := 0

/-- `err_invalid_index = 1`: InvalidIndex (30_encoding.md R48, 60_exceptions.md R94). -/
def errInvalid : BitVec 1 := 1

/-- `enc_invalid = (idx[7:4] ≠ 0b0000)`, for every index (40_encode.md R65). -/
def encInvalid (idx : Index) : Bool := !indexValid idx

end Sys2Proof.Machine
end

