-- ==== Sys2Proof/Machine/State.lean ====
section
/-! DEFINITION. The state of one codec instance and its host, the reasons a step can stop, and the state after reset. The
block stores nothing (10_state.md R15): State is its ports and the run the host makes of it (R14, R28). -/

namespace Sys2Proof.Machine

/-- Format RSP: the two output ports, which together form one response (10_state.md R25, 30_encoding.md R48). -/
structure Response where
  result          : BitVec 64
  errInvalidIndex : BitVec 1
deriving DecidableEq, Repr

/-- No rule stops the machine with a fault. InvalidIndex is a response (60_exceptions.md R94 to R96), and no other
failure exists (R95), so there is no constructor (log 12). -/
inductive Fault where
deriving DecidableEq, Repr

/-- Why a request has no meaning. -/
inductive Refusal where
  /-- Raised by an arm of `exec` for an instruction without a meaning; safe. No arm raises it in this model. -/
  | notModelled (mnemonic : String)
  /-- `Refused(PreconditionViolation)`: raised by ENCODE_UNCHECKED with an index of 16 or more, where the hardware may
  drive anything (10_state.md R27, 40_encode.md R69, 93_implementation_defined.md U1); safe (log 6). -/
  | preconditionViolation
deriving DecidableEq, Repr

/-- The ports of one codec instance, and the host's run (log 1). -/
structure State where
  /-- What the input ports carry: the request held on them (10_state.md R24). -/
  inputs   : Request
  /-- What the output ports carry: the response to that request (10_state.md R25). -/
  outputs  : Response
  /-- The requests the host has still to present, the next one first (10_state.md R28). -/
  pending  : List Request
  /-- The responses the host has sampled, the first one first: the run's observation (10_state.md R28). -/
  observed : List Response
deriving DecidableEq, Repr

/-- There is nothing to reset (10_state.md R29, 70_reset_and_hazards.md R109). The input ports are the host's to drive
and the spec gives them no value, so they are 0 (DESIGN CHOICE, log 3); the output ports are the function of those
inputs (R110), no request is pending and nothing is sampled. -/
def State.reset : State where
  inputs   := { op := 0, index := 0, source := 0, crumb := 0 }
  outputs  := { result := 0, errInvalidIndex := 0 }
  pending  := []
  observed := []

end Sys2Proof.Machine
end

