-- ==== Sys2Proof/Machine/Ops.lean ====
section
/-! DEFINITION. The shared operations of a step: presenting a request, answering it, raising InvalidIndex, refusing. -/

namespace Sys2Proof.Machine

/-- The host drives `q` onto the input ports and has `rest` still to present (10_state.md R17, R28). -/
def State.present (s : State) (q : Request) (rest : List Request) : State :=
  { s with inputs := q, pending := rest }

/-- The block drives `r` on the output ports and the host samples it (10_state.md R25, R28). -/
def State.respond (s : State) (r : Response) : State :=
  { s with outputs := r, observed := s.observed ++ [r] }

/-- The host will present `q` before everything it has pending. -/
def State.presentNext (s : State) (q : Request) : State :=
  { s with pending := q :: s.pending }

/-- A response without error: `out.result <- v; out.err_invalid_index <- 0` (00_scope.md R11). -/
def complete (v : BitVec 64) (s : State) : Host.Outcome State Fault Refusal :=
  .next (s.respond { result := v, errInvalidIndex := errNone })

/-- `raise InvalidIndex`, the block's only error: `result` is driven to 0 and `err_invalid_index` to 1 in the response to
the same request (60_exceptions.md R94, R96). It saves no state, changes no mode and redirects nothing (R100), so there
is no return from it (R101). -/
def raiseInvalidIndex (s : State) : Host.Outcome State Fault Refusal :=
  .next (s.respond { result := 0, errInvalidIndex := errInvalid })

/-- `refuse PreconditionViolation`: the request has no meaning (00_scope.md R11, 10_state.md R27). -/
def refusePrecondition : Host.Outcome State Fault Refusal :=
  .refused .preconditionViolation

/-- The host presents its next request and the block reads its operation off the input ports; nothing where the host has
no request to present (10_state.md R14, R17). -/
def fetch (s : State) : Option (Instr × State) :=
  match s.pending with
  | [] => none
  | q :: rest => some (decodeRequest (s.present q rest).inputs, s.present q rest)

end Sys2Proof.Machine
end

