-- ==== Sys2Proof/Machine/CrumbDecoder.lean ====
section
/-! DEFINITION. The sub-block `crumb_decoder`, step by step in the source's order (41_decode.md R71 to R79), and the
operation DECODE (R80). -/

namespace Sys2Proof.Machine

/-- Step 1, `data = c & 0x0F` (41_decode.md R72). -/
def decData (c : Crumb) : Byte := c &&& 0x0F

/-- Step 2, `index = c >> 4` at 8 bits (41_decode.md R73). -/
def decIndex (c : Crumb) : Byte := c >>> 4

/-- Step 3, `tb = index div 2`, which three bits hold (41_decode.md R74). -/
def decTarget (c : Crumb) : BitVec 3 := (decIndex c / 2).setWidth 3

/-- Step 4, `zext_8(data) << ((index & 1) * 4)` at 8 bits (41_decode.md R75). -/
def decByte (c : Crumb) : Byte := decData c <<< ((decIndex c &&& 1).toNat * 4)

/-- The source's own derivation of step 4, a chain of shifts each at 8 bits (41_decode.md R76, 90_conflicts.md C6). The
sub-block below uses `decByte`; an implementation may use either (92_eei_decisions.md D18). -/
def decByteChain (c : Crumb) : Byte := (c <<< 4) >>> (((decIndex c &&& 1) ^^^ 1).toNat * 4)

/-- Step 5, eight zero bytes with the computed byte at offset `tb` (41_decode.md R77). -/
def decBuffer (c : Crumb) : Vector Byte 8 :=
  (Vector.replicate 8 0).set (decTarget c).toNat (decByte c) (decTarget c).isLt

/-- The sub-block's output `dec_value`, the buffer read as a little-endian value (41_decode.md R71, R77). -/
def crumbDecoder (c : Crumb) : Source := le64 (decBuffer c)

/-- DECODE (41_decode.md R80). -/
def execDecode (c : Crumb) (s : State) : Host.Outcome State Fault Refusal :=
  complete (crumbDecoder c) s

end Sys2Proof.Machine
end

