-- ==== Sys2Proof/Config.lean ====
section
/-! DEFINITION. What is fixed for the block: its one design constant, and the one value the spec leaves unspecified. -/

namespace Sys2Proof

/-- `MAX_NIBBLE_INDEX`, the hardwired count of nibble positions and exclusive upper bound of a valid index; it has no
port and no operation reads it (42_raw.md R83, 90_conflicts.md C3). -/
def Config.maxNibbleIndex : Nat := 16

/-- FREE VALUE (log 7). The `enc_crumb` output of the sub-block `crumb_encoder` for an index of 16 or more, which the
spec leaves unspecified (40_encode.md R67, 93_implementation_defined.md U2). It has no body, so nothing can be proved
of its value. The top level never passes it on. -/
opaque Config.encCrumbUnspecified : Index → Source → Crumb

end Sys2Proof
end

