-- ==== Sys2Proof/Machine/CrumbEncoder.lean ====
section
/-! DEFINITION. The sub-block `crumb_encoder`, step by step in the source's order (40_encode.md R60 to R67), and the two
operations that use it: ENCODE (R68) and ENCODE_UNCHECKED (R69). -/

namespace Sys2Proof.Machine

/-- Steps 1 and 2, `b0 = s[8*bsel+7 : 8*bsel]`: select the target byte (40_encode.md R61). -/
def encSelected (idx : Index) (src : Source) : Byte := byteAt src (indexByte idx).toNat

/-- Step 3, `b1 = b0 >> ((idx & 1) * 4)` at 8 bits (40_encode.md R62). -/
def encShifted (idx : Index) (src : Source) : Byte := encSelected idx src >>> indexShift idx

/-- Step 4a, `b2 = b1 & 0x0F`: clear the high nibble (40_encode.md R63, 90_conflicts.md C1). -/
def encMasked (idx : Index) (src : Source) : Byte := encShifted idx src &&& 0x0F

/-- Steps 4b and 5, `b2 | (idx[3:0] << 4)` at 8 bits (40_encode.md R64). -/
def encMerged (idx : Index) (src : Source) : Crumb :=
  encMasked idx src ||| ((indexField idx).setWidth 8 <<< 4)

/-- The output ports of `crumb_encoder` (40_encode.md R60). -/
structure EncoderPorts where
  encCrumb   : Crumb
  encInvalid : Bool
deriving DecidableEq, Repr

/-- The sub-block: `enc_crumb` is the merged byte for a valid index (R61 to R64) and unspecified for another (R67, free
value of log 7); `enc_invalid` is the bounds test for every index (R65). -/
def crumbEncoder (idx : Index) (src : Source) : EncoderPorts where
  encCrumb   := if encInvalid idx then Config.encCrumbUnspecified idx src else encMerged idx src
  encInvalid := encInvalid idx

/-- ENCODE (40_encode.md R68). -/
def execEncode (idx : Index) (src : Source) (s : State) : Host.Outcome State Fault Refusal :=
  if (crumbEncoder idx src).encInvalid then raiseInvalidIndex s
  else complete (packByte (crumbEncoder idx src).encCrumb) s

/-- ENCODE_UNCHECKED (40_encode.md R69): the same steps, and a violated precondition is refused (60_exceptions.md
R97). -/
def execEncodeUnchecked (idx : Index) (src : Source) (s : State) : Host.Outcome State Fault Refusal :=
  if (crumbEncoder idx src).encInvalid then refusePrecondition
  else complete (packByte (crumbEncoder idx src).encCrumb) s

end Sys2Proof.Machine
end

