-- ==== Sys2Proof/Machine/RawAccessor.lean ====
section
/-! DEFINITION. The pass-through path of the raw accessor (42_raw.md R81, R82). -/

namespace Sys2Proof.Machine

/-- RAW: the Crumb unchanged, zero-extended (42_raw.md R81). -/
def execRaw (c : Crumb) (s : State) : Host.Outcome State Fault Refusal :=
  complete (packByte c) s

end Sys2Proof.Machine
end

