-- ==== Sys2Proof/Machine/Dispatch.lean ====
section
/-! DEFINITION. One arm per operation (30_encoding.md R50, 10_state.md R27). -/

namespace Sys2Proof.Machine

def exec (i : Instr) (s : State) : Host.Outcome State Fault Refusal :=
  match i with
  | .encode index source => Sys2Proof.Machine.execEncode index source s
  | .encodeUnchecked index source => Sys2Proof.Machine.execEncodeUnchecked index source s
  | .decode crumb => Sys2Proof.Machine.execDecode crumb s
  | .raw crumb => Sys2Proof.Machine.execRaw crumb s

end Sys2Proof.Machine
end

