-- ==== Sys2Proof/Machine/Step.lean ====
section
/-! DEFINITION. One step: the host presents its next request and the block answers it (10_state.md R14, R27, R28). -/

namespace Sys2Proof.Machine

/-- One request, one indivisible step (20_memory.md R38). Where the host has no request to present, nothing happens
(DESIGN CHOICE, log 2). -/
def step (s : State) : Host.Outcome State Fault Refusal :=
  match fetch s with
  | none => .next s
  | some (i, s') => exec i s'

/-- `s` with the request of a table word placed where the next step takes its request from (log 4, log 5). -/
def State.withFetchWord (s : State) (nbits w : Nat) : State :=
  s.presentNext (Request.ofTableWord (tableWordOf nbits w))

end Sys2Proof.Machine
end

