-- ==== Sys2Proof/Machine/Codec.lean ====
section
/-! DEFINITION. The codec as the spec's plain function `Codec : Request -> Outcome` (10_state.md R27), over the closed forms of
the two sub-blocks (40_encode.md R66, 41_decode.md R78). The step does not call it: the step follows the source's
algorithm, and claims compare the two. -/

namespace Sys2Proof.Machine

/-- `{idx[3:0], s[4*idx+3 : 4*idx]}`, the Crumb of a valid index (40_encode.md R66). -/
def crumbClosedForm (idx : Index) (src : Source) : Crumb :=
  mkCrumb (indexField idx) (nibbleAt src idx.toNat)

/-- `zext_64(c[3:0]) << (4 * c[7:4])` (41_decode.md R78). -/
def valueClosedForm (c : Crumb) : Source :=
  (crumbData c).setWidth 64 <<< (4 * (crumbIndex c).toNat)

/-- `Codec`: `.ok r` is `Resp(r)` and `.error` is `Refused(PreconditionViolation)` (10_state.md R27). -/
def codec (q : Request) : Except Refusal Response :=
  match (q.op.toFin : Fin 4) with
  | 0 =>
    if q.index.toNat < 16 then .ok ⟨packByte (crumbClosedForm q.index q.source), errNone⟩
    else .ok ⟨0, errInvalid⟩
  | 1 =>
    if q.index.toNat < 16 then .ok ⟨packByte (crumbClosedForm q.index q.source), errNone⟩
    else .error .preconditionViolation
  | 2 => .ok ⟨valueClosedForm q.crumb, errNone⟩
  | 3 => .ok ⟨packByte q.crumb, errNone⟩

end Sys2Proof.Machine
end

