-- ==== Sys2Proof/Safety.lean ====
section
/-! DEFINITION. The terms claims use: the response of an outcome, a run, the encode and decode relations of the codec laws, and the
invariant of a run. -/

namespace Sys2Proof

open Machine

/-- The response an outcome leaves on the output ports, if it is a next state. -/
def responseOf (o : Host.Outcome State Fault Refusal) : Option Response :=
  match o with
  | .next t => some t.outputs
  | .fault _ => none
  | .refused _ => none

/-- The operation answers a next state, with the response `r` on the output ports (10_state.md R25, R27). -/
def Answers (i : Instr) (s : State) (r : Response) : Prop :=
  ∃ t, exec i s = .next t ∧ t.outputs = r

/-- `k` steps, stopping at the first refusal: with `k` requests pending, the run of 10_state.md R28. -/
def runSteps : Nat → State → Host.Outcome State Fault Refusal
  | 0, s => .next s
  | k + 1, s =>
    match step s with
    | .next t => runSteps k t
    | .fault f => .fault f
    | .refused r => .refused r

/-- `E(idx, src) = c` at `s` (43_laws.md, notation): ENCODE answers without error and bits 7:0 of its result are `c`. -/
def Encodes (s : State) (idx : Index) (src : Source) (c : Crumb) : Prop :=
  ∃ t, exec (.encode idx src) s = .next t ∧ t.outputs.errInvalidIndex = 0#1 ∧ t.outputs.result.extractLsb' 0 8 = c

/-- `D(c) = v` at `s` (43_laws.md, notation): DECODE answers without error with the result `v`. -/
def Decodes (s : State) (c : Crumb) (v : Source) : Prop :=
  ∃ t, exec (.decode c) s = .next t ∧ t.outputs.errInvalidIndex = 0#1 ∧ t.outputs.result = v

/-- The output ports carry the response to the request on the input ports: the outputs are "a function of the current
inputs at all times" (10_state.md R29). -/
abbrev OutputsFollowInputs (s : State) : Prop := codec s.inputs = .ok s.outputs

/-- The two requests select the same operation and agree on the fields it reads (30_encoding.md R51). -/
def Request.sameReadFields (p q : Request) : Prop :=
  p.op = q.op ∧
  ((p.op = 0b00#2 ∨ p.op = 0b01#2) → p.index = q.index ∧ p.source = q.source) ∧
  ((p.op = 0b10#2 ∨ p.op = 0b11#2) → p.crumb = q.crumb)

end Sys2Proof
end

