-- ==== Sys2Proof/WellFormed.lean ====
section
/-! DEFINITION. Which instructions the spec gives a meaning. Operand widths are in the types, so the one check left is the
documented precondition of ENCODE_UNCHECKED (30_encoding.md R57). -/

namespace Sys2Proof

/-- The operands meet the operation's contract. An ENCODE with an index of 16 or more is defined (it raises
InvalidIndex), and every Crumb is legal; only ENCODE_UNCHECKED has a precondition (30_encoding.md R55, R57,
40_encode.md R69). -/
def Instr.wellFormed : Instr → Bool
  | .encode _ _ => true
  | .encodeUnchecked index _ => decide (index.toNat < Config.maxNibbleIndex)
  | .decode _ => true
  | .raw _ => true

end Sys2Proof
end

