-- ==== Sys2Proof/Certificates/Slice0/Obligations.lean ====
section
/-! DEFINITION. The statements for the provers. Each docstring names the rule of spec/ it formalises, or says that it rests
on a choice of the model. -/

open Sys2Proof Sys2Proof.Machine

/-! Encoding of requests -/

/-- R50: each value of `op` selects its operation, and all four values are used. -/
def Obligations.OpSelectsOperation : Prop :=
  ∀ q : Request,
    (q.op = 0b00#2 → decodeRequest q = .encode q.index q.source) ∧
    (q.op = 0b01#2 → decodeRequest q = .encodeUnchecked q.index q.source) ∧
    (q.op = 0b10#2 → decodeRequest q = .decode q.crumb) ∧
    (q.op = 0b11#2 → decodeRequest q = .raw q.crumb) ∧
    (q.op = 0b00#2 ∨ q.op = 0b01#2 ∨ q.op = 0b10#2 ∨ q.op = 0b11#2)

/-- Requests of 95_test_vectors.md as table words (layout: the model's, log 5), and the bare op of each row. -/
def Obligations.WrittenOutWordsDecode : Prop :=
  decodeTableWord 88 0xFF0100 = some (.encode 1 0xFF) ∧
  decodeTableWord 88 0xFFFFFFFFFFFFFFFF0E01 = some (.encodeUnchecked 14 0xFFFFFFFFFFFFFFFF) ∧
  decodeTableWord 88 0x1F00000000000000000002 = some (.decode 0x1F) ∧
  decodeTableWord 88 0x5AFFFFFFFFFFFFFFFFFF03 = some (.raw 0x5A) ∧
  decodeTableWord 8 0 = some (.encode 0 0) ∧
  decodeTableWord 8 1 = some (.encodeUnchecked 0 0) ∧
  decodeTableWord 8 2 = some (.decode 0) ∧
  decodeTableWord 8 3 = some (.raw 0)

/-- Decoding the table word of an operation gives it back with every operand at every value, and a request survives its
table word whole (layout: the model's, log 5). -/
def Obligations.DecodeOfEncodeIsIdentity : Prop :=
  (∀ i : Instr, decode (encode i) = i) ∧ ∀ q : Request, Request.ofTableWord q.toTableWord = q

/-- R51, R58: encoding what a request decodes to keeps the fields the operation reads and writes the ignored ones as 0. -/
def Obligations.EncodeOfDecodeZeroesIgnoredFields : Prop :=
  ∀ q : Request,
    Request.sameReadFields (encodeRequest (decodeRequest q)) q ∧
    ((q.op = 0b00#2 ∨ q.op = 0b01#2) → (encodeRequest (decodeRequest q)).crumb = 0#8) ∧
    ((q.op = 0b10#2 ∨ q.op = 0b11#2) →
      (encodeRequest (decodeRequest q)).index = 0#8 ∧ (encodeRequest (decodeRequest q)).source = 0#64)

/-- R51: two requests decode to the same operation exactly when they agree on `op` and the fields it reads, and then they
give the same outcome wherever they are presented. -/
def Obligations.IgnoredFieldsDoNotMatter : Prop :=
  ∀ (p q : Request) (s : State) (rest : List Request),
    (decodeRequest p = decodeRequest q ↔ p.sameReadFields q) ∧
    (p.sameReadFields q →
      responseOf (step { s with pending := p :: rest }) = responseOf (step { s with pending := q :: rest }) ∧
      ∀ r, step { s with pending := p :: rest } = .refused r ↔ step { s with pending := q :: rest } = .refused r)

/-! The step and the run -/

/-- R14, R17, in the model's form of a run (log 1): the step runs the operation of the next request, with that request on
the input ports. -/
def Obligations.StepRunsDecodedRequest : Prop :=
  ∀ (s : State) (q : Request) (rest : List Request), s.pending = q :: rest →
    step s = exec (decodeRequest q) { s with inputs := q, pending := rest }

/-- The model's choice (log 2): with no request pending a step changes nothing. -/
def Obligations.StepWithoutRequestIsIdle : Prop :=
  ∀ s : State, s.pending = [] → step s = .next s

/-- A table word placed for the next step is what that step runs (the model's loading convention, log 4 and log 5). -/
def Obligations.StepRunsPlacedWord : Prop :=
  ∀ (s : State) (nbits w : Nat) (i : Instr), decodeTableWord nbits w = some i →
    step (s.withFetchWord nbits w) = exec i { s with inputs := Request.ofTableWord (tableWordOf nbits w) }

/-- R27: the step's outcome on a request is `Codec` of it, and only ENCODE_UNCHECKED with an index of 16 or more is
Refused. -/
def Obligations.StepMatchesCodec : Prop :=
  ∀ (s : State) (q : Request) (rest : List Request), s.pending = q :: rest →
    (∀ r, codec q = .ok r → ∃ t, step s = .next t ∧ t.outputs = r) ∧
    (∀ e, codec q = .error e → step s = .refused e ∧ e = .preconditionViolation) ∧
    ((∃ e, codec q = .error e) ↔ q.op = 0b01#2 ∧ 16 ≤ q.index.toNat)

/-- The frame of a step (R14, and the model's form of a run, log 1): the request moves onto the input ports, the later
requests stay pending, and the response is recorded after those before it. -/
def Obligations.StepMovesOneRequest : Prop :=
  ∀ (s t : State) (q : Request) (rest : List Request), s.pending = q :: rest → step s = .next t →
    t.inputs = q ∧ t.pending = rest ∧ t.observed = s.observed ++ [t.outputs]

/-- R28, in the model's form of a run (log 1): a run over answered requests observes `Codec` of each, in order, whatever
came before and whatever is pending after. -/
def Obligations.RunObservesCodecOfEachRequest : Prop :=
  ∀ (s : State) (qs later : List Request) (rs : List Response), s.pending = qs ++ later →
    List.Forall₂ (fun q r => codec q = .ok r) qs rs →
    ∃ t : State, runSteps qs.length s = .next t ∧
      t.observed = s.observed ++ rs ∧ t.pending = later ∧
      t.inputs = qs.getLast?.getD s.inputs ∧ t.outputs = rs.getLast?.getD s.outputs

/-- R28, in the model's form of a run (log 1): presenting the same requests in another order gives each request the same
response. -/
def Obligations.ReorderingKeepsEachResponse : Prop :=
  ∀ (s s' t t' : State) (qs qs' : List Request), s.pending = qs → s'.pending = qs' → qs.Perm qs' →
    s.observed = [] → s'.observed = [] →
    runSteps qs.length s = .next t → runSteps qs'.length s' = .next t' →
    (qs.zip t.observed).Perm (qs'.zip t'.observed) ∧
      t.observed.length = qs.length ∧ t'.observed.length = qs'.length

/-- R27 and the model's choice (log 6): a run ends in the refusal at the first request that `Codec` refuses, however many
steps are asked for. -/
def Obligations.RunEndsAtRefusedRequest : Prop :=
  ∀ (s : State) (qs later : List Request) (rs : List Response) (q : Request) (k : Nat),
    s.pending = qs ++ q :: later → List.Forall₂ (fun p r => codec p = .ok r) qs rs →
    codec q = .error .preconditionViolation →
    runSteps (qs.length + 1 + k) s = .refused .preconditionViolation

/-- R114, R101, R15: the outcome of a request depends on nothing an earlier request left. -/
def Obligations.OutcomeIgnoresHistory : Prop :=
  ∀ (s s' : State) (q : Request) (rest rest' : List Request),
    s.pending = q :: rest → s'.pending = q :: rest' →
    responseOf (step s) = responseOf (step s') ∧ ∀ r, step s = .refused r ↔ step s' = .refused r

/-- R39, in the model's form of a run (log 1): presenting an answered request once more gives the same response. -/
def Obligations.PresentingAgainGivesSameResponse : Prop :=
  ∀ (s t : State) (q : Request) (rest : List Request), s.pending = q :: q :: rest → step s = .next t →
    step t = .next { t with pending := rest, observed := t.observed ++ [t.outputs] }

/-- R29, R110 at reset: the outputs are the function of the inputs (whose values are the model's, log 3), and the host has
presented and sampled nothing (log 1). -/
def Obligations.ResetOutputsFollowInputs : Prop :=
  OutputsFollowInputs State.reset ∧ State.reset.pending = [] ∧ State.reset.observed = []

/-- R29, R110: every step keeps the outputs the function of the current inputs. -/
def Obligations.StepKeepsOutputsFollowInputs : Prop :=
  ∀ s t : State, OutputsFollowInputs s → step s = .next t → OutputsFollowInputs t

/-! The operations -/

/-- R68, R85: ENCODE is op 0b00. For a valid index it answers the Crumb of index and nibble, zero-extended, without
error; for an index of 16 or more it reports InvalidIndex and a result of 0, for every source. -/
def Obligations.CheckedEncodeByIndex : Prop :=
  (∀ (idx : Index) (src : Source) (s : State), idx.toNat < 16 →
    Answers (.encode idx src) s
      ⟨(idx.extractLsb' 0 4 ++ src.extractLsb' (4 * idx.toNat) 4).setWidth 64, 0#1⟩) ∧
  (∀ (idx : Index) (src : Source) (s : State), 16 ≤ idx.toNat →
    Answers (.encode idx src) s ⟨0#64, 1#1⟩) ∧
  (∀ q : Request, q.op = 0b00#2 → decodeRequest q = .encode q.index q.source)

/-- R69: ENCODE_UNCHECKED is op 0b01. It answers as the checked encode for a valid index and is refused for an index of
16 or more. -/
def Obligations.UncheckedEncodeByIndex : Prop :=
  (∀ (idx : Index) (src : Source) (s : State), idx.toNat < 16 →
    Answers (.encodeUnchecked idx src) s
      ⟨(idx.extractLsb' 0 4 ++ src.extractLsb' (4 * idx.toNat) 4).setWidth 64, 0#1⟩) ∧
  (∀ (idx : Index) (src : Source) (s : State), 16 ≤ idx.toNat →
    exec (.encodeUnchecked idx src) s = .refused .preconditionViolation) ∧
  (∀ q : Request, q.op = 0b01#2 → decodeRequest q = .encodeUnchecked q.index q.source)

/-- R93: the unchecked encode agrees with the checked one on valid indices, and the two differ on the others. -/
def Obligations.UncheckedAgreesWithChecked : Prop :=
  ∀ (idx : Index) (src : Source) (s : State),
    (idx.toNat < 16 → exec (.encodeUnchecked idx src) s = exec (.encode idx src) s ∧
      ∃ c, Encodes s idx src c ∧ Answers (.encodeUnchecked idx src) s ⟨c.setWidth 64, 0#1⟩) ∧
    (16 ≤ idx.toNat → Answers (.encode idx src) s ⟨0#64, 1#1⟩ ∧
      exec (.encodeUnchecked idx src) s = .refused .preconditionViolation)

/-- R80, R78: DECODE is op 0b10 and answers every Crumb. -/
def Obligations.DecodeOfEveryCrumb : Prop :=
  (∀ (c : Crumb) (s : State),
    Answers (.decode c) s ⟨(c.extractLsb' 0 4).setWidth 64 <<< (4 * (c.extractLsb' 4 4).toNat), 0#1⟩) ∧
  (∀ q : Request, q.op = 0b10#2 → decodeRequest q = .decode q.crumb)

/-- R81: RAW is op 0b11 and returns every Crumb unchanged. -/
def Obligations.RawReturnsCrumb : Prop :=
  (∀ (c : Crumb) (s : State), Answers (.raw c) s ⟨c.setWidth 64, 0#1⟩) ∧
  (∀ q : Request, q.op = 0b11#2 → decodeRequest q = .raw q.crumb)

/-- The frame of all four operations: the input ports and the requests still to come are unchanged, and the responses
recorded before stay, followed by the one now on the output ports (R15, R38, R39; the record is the model's, log 1). -/
def Obligations.EveryOperationOnlyAnswers : Prop :=
  ∀ (i : Instr) (s t : State), exec i s = .next t →
    t.inputs = s.inputs ∧ t.pending = s.pending ∧ t.observed = s.observed ++ [t.outputs]

/-- R94, R95: the error bit is 1 exactly for ENCODE with an index of 16 or more, where the result is 0. -/
def Obligations.ErrorBitExactlyOnInvalidIndex : Prop :=
  ∀ (i : Instr) (s t : State), exec i s = .next t →
    ((∃ idx src, i = .encode idx src ∧ 16 ≤ idx.toNat) →
      t.outputs.errInvalidIndex = 1#1 ∧ t.outputs.result = 0#64) ∧
    ((¬ ∃ idx src, i = .encode idx src ∧ 16 ≤ idx.toNat) → t.outputs.errInvalidIndex = 0#1)

/-- R27, R57: an operation is refused exactly when it is ENCODE_UNCHECKED with an index of 16 or more, nothing faults, and
the well-formed operations are the ones that answer. -/
def Obligations.RefusedExactlyOnViolatedPrecondition : Prop :=
  ∀ (i : Instr) (s : State),
    ((∃ r, exec i s = .refused r) ↔ ∃ idx src, i = .encodeUnchecked idx src ∧ 16 ≤ idx.toNat) ∧
    (∀ r, exec i s = .refused r → r = .preconditionViolation) ∧
    (∀ f, exec i s ≠ .fault f) ∧
    (i.wellFormed = true ↔ ∃ t, exec i s = .next t)

/-- R56: an 8-bit result is zero-extended, and the result under an error is 0. -/
def Obligations.EightBitResultsAreZeroExtended : Prop :=
  ∀ (i : Instr) (s t : State), exec i s = .next t →
    ((¬ ∃ c, i = .decode c) → t.outputs.result.extractLsb' 8 56 = 0#56) ∧
    (t.outputs.errInvalidIndex = 1#1 → t.outputs.result = 0#64)

/-- R68: the outcome of an encode never depends on a nibble of the source other than the one its index names. -/
def Obligations.EncodeReadsOnlyItsNibble : Prop :=
  ∀ (idx : Index) (src src' : Source) (s : State),
    src.extractLsb' (4 * idx.toNat) 4 = src'.extractLsb' (4 * idx.toNat) 4 →
    exec (.encode idx src) s = exec (.encode idx src') s ∧
    exec (.encodeUnchecked idx src) s = exec (.encodeUnchecked idx src') s

/-! The sub-blocks and the views of a value -/

/-- R65: bounds detection, for every index and source. -/
def Obligations.EncoderDetectsBounds : Prop :=
  ∀ (idx : Index) (src : Source),
    ((crumbEncoder idx src).encInvalid = true ↔ 16 ≤ idx.toNat) ∧
    ((crumbEncoder idx src).encInvalid = true ↔ idx.extractLsb' 4 4 ≠ 0b0000#4)

/-- R61 to R64: the byte selected, shifted, masked and merged with the index, for a valid index. -/
def Obligations.EncoderStepsSelectShiftClearMerge : Prop :=
  ∀ (idx : Index) (src : Source), idx.toNat < 16 →
    encSelected idx src = src.extractLsb' (8 * (idx.toNat / 2)) 8 ∧
    encShifted idx src = encSelected idx src >>> (idx.toNat % 2 * 4) ∧
    (idx.toNat % 2 = 1 → (encShifted idx src).extractLsb' 4 4 = 0#4 ∧
      (encShifted idx src).extractLsb' 0 4 = (encSelected idx src).extractLsb' 4 4) ∧
    (idx.toNat % 2 = 0 → encShifted idx src = encSelected idx src ∧
      (encShifted idx src).extractLsb' 4 4 = nibbleAt src (idx.toNat + 1)) ∧
    encMasked idx src = encShifted idx src &&& 0x0F#8 ∧
    (encMasked idx src).extractLsb' 4 4 = 0#4 ∧
    (encMasked idx src).extractLsb' 0 4 = (encShifted idx src).extractLsb' 0 4 ∧
    (encMasked idx src).extractLsb' 0 4 = nibbleAt src idx.toNat ∧
    (crumbEncoder idx src).encCrumb = encMasked idx src ||| (idx <<< 4) ∧
    (crumbEncoder idx src).encCrumb = idx.extractLsb' 0 4 ++ (encMasked idx src).extractLsb' 0 4

/-- R66: the closed form of the encoder, as fields and as arithmetic, for a valid index. -/
def Obligations.EncoderClosedForm : Prop :=
  ∀ (idx : Index) (src : Source), idx.toNat < 16 →
    (crumbEncoder idx src).encCrumb = idx.extractLsb' 0 4 ++ src.extractLsb' (4 * idx.toNat) 4 ∧
    (crumbEncoder idx src).encCrumb.toNat = idx.toNat * 16 + (src.toNat >>> (4 * idx.toNat)) % 16

/-- R70: for an even valid index the datapath without the clear computes the index ORed with the next nibble, and agrees
with the encoder only where that nibble adds no bit to the index. -/
def Obligations.UnmaskedDatapathCorruptsIndex : Prop :=
  ∀ (idx : Index) (src : Source), idx.toNat < 16 → idx.toNat % 2 = 0 →
    encShifted idx src ||| (idx <<< 4) = (idx.extractLsb' 0 4 ||| nibbleAt src (idx.toNat + 1)) ++ nibbleAt src idx.toNat ∧
    (encShifted idx src ||| (idx <<< 4) = (crumbEncoder idx src).encCrumb ↔
      idx.extractLsb' 0 4 ||| nibbleAt src (idx.toNat + 1) = idx.extractLsb' 0 4)

/-- R72 to R74: the decoder's data, index and target byte. -/
def Obligations.DecoderExtractsFields : Prop :=
  ∀ c : Crumb,
    decData c = c &&& 0x0F#8 ∧ decData c = (c.extractLsb' 0 4).setWidth 8 ∧
    decIndex c = c >>> 4 ∧ decIndex c = (c.extractLsb' 4 4).setWidth 8 ∧
    decTarget c = c.extractLsb' 5 3 ∧
    (decTarget c).toNat = (c.extractLsb' 4 4).toNat / 2

/-- R75, R76: the placed byte, and the shift chain at 8 bits that must give the same byte. -/
def Obligations.DecoderDerivationsAgree : Prop :=
  ∀ c : Crumb,
    decByte c = (if (c.extractLsb' 4 4).toNat % 2 = 0 then 0b0000#4 ++ c.extractLsb' 0 4 else c.extractLsb' 0 4 ++ 0b0000#4) ∧
    decByteChain c = decByte c

/-- R77: the decoded value has the placed byte at the target byte and zero in the other seven. -/
def Obligations.DecodedValueIsPlacedByte : Prop :=
  ∀ (c : Crumb) (k : Fin 8),
    (crumbDecoder c).extractLsb' (8 * k) 8 = if k.val = (decTarget c).toNat then decByte c else 0#8

/-- R32: the byte view is little-endian, and `LE64` of the bytes of a value is the value. -/
def Obligations.ByteViewIsLittleEndian : Prop :=
  (∀ (v : Source) (k : Nat), byteAt v k = v.extractLsb' (8 * k) 8) ∧
  (∀ v : Source, le64 #v[byteAt v 0, byteAt v 1, byteAt v 2, byteAt v 3, byteAt v 4, byteAt v 5, byteAt v 6, byteAt v 7] = v) ∧
  (∀ (buf : Vector Byte 8) (k : Fin 8), (le64 buf).extractLsb' (8 * k) 8 = buf[k])

/-- R33: nibble `i` lies in byte `i div 2`, in its low half when `i` is even and in its high half when `i` is odd. -/
def Obligations.NibbleLiesInItsByte : Prop :=
  ∀ (v : Source) (i : Nat), i < 16 →
    nibbleAt v i = v.extractLsb' (4 * i) 4 ∧
    (i % 2 = 0 → nibbleAt v i = (byteAt v (i / 2)).extractLsb' 0 4) ∧
    (i % 2 = 1 → nibbleAt v i = (byteAt v (i / 2)).extractLsb' 4 4)

/-- R83: MAX_NIBBLE_INDEX is 16, and an index is valid exactly below it. -/
def Obligations.MaxNibbleIndexBoundsValidIndices : Prop :=
  Config.maxNibbleIndex = 16 ∧
  ∀ idx : Index, (indexValid idx = true ↔ idx.toNat < Config.maxNibbleIndex) ∧ (indexValid idx = !encInvalid idx)

/-! The codec laws -/

/-- R84: decoding an encoded nibble gives it in its place, and every other nibble is zero. -/
def Obligations.DecodeOfEncodeKeepsOneNibble : Prop :=
  ∀ (idx : Index) (src : Source) (s s' : State), idx.toNat < 16 →
    ∃ c v, Encodes s idx src c ∧ Decodes s' c v ∧
      v = ((src >>> (4 * idx.toNat)) &&& 0xF#64) <<< (4 * idx.toNat) ∧
      ∀ j, j < 16 → j ≠ idx.toNat → nibbleAt v j = 0#4

/-- R86: a decoded value has zero bits outside its Crumb's window, for an encoded Crumb and for every Crumb. -/
def Obligations.DecodedBitsStayInWindow : Prop :=
  (∀ (c : Crumb) (s : State), ∃ v, Decodes s c v ∧
    ∀ k, (k < 4 * (crumbIndex c).toNat ∨ 4 * (crumbIndex c).toNat + 4 ≤ k) → v.getLsbD k = false) ∧
  (∀ (idx : Index) (src : Source) (s s' : State), idx.toNat < 16 → ∃ c v, Encodes s idx src c ∧ Decodes s' c v ∧
    ∀ k, (k < 4 * idx.toNat ∨ 4 * idx.toNat + 4 ≤ k) → v.getLsbD k = false)

/-- R87: at a fixed index, Crumbs are equal exactly when the nibbles are, and DECODE tells the Crumbs of one index
apart. -/
def Obligations.InjectiveAtFixedIndex : Prop :=
  (∀ (idx : Index) (src src' : Source) (s s' : State), idx.toNat < 16 →
    ∃ c c', Encodes s idx src c ∧ Encodes s' idx src' c' ∧
      (c = c' ↔ src.extractLsb' (4 * idx.toNat) 4 = src'.extractLsb' (4 * idx.toNat) 4)) ∧
  (∀ (i d d' : Nibble) (s s' : State), ∃ v v', Decodes s (mkCrumb i d) v ∧ Decodes s' (mkCrumb i d') v' ∧
    (v = v' → d = d'))

/-- R88, with the zero nibble the rule says it also holds for: a value with one nibble survives encode and decode. -/
def Obligations.SingleNibbleSurvives : Prop :=
  ∀ (idx : Index) (n : Nibble) (s s' : State), idx.toNat < 16 →
    ∃ c, Encodes s idx (n.setWidth 64 <<< (4 * idx.toNat)) c ∧ Decodes s' c (n.setWidth 64 <<< (4 * idx.toNat))

/-- R89: every byte is the Crumb of encoding its own decoded value at its own index. -/
def Obligations.EveryByteIsEncoded : Prop :=
  ∀ (c : Crumb) (s s' : State), ∃ v, Decodes s c v ∧ Encodes s' ((crumbIndex c).setWidth 8) v c

/-- R90: the Crumbs with a zero data nibble decode to 0, every other Crumb decodes to a value other than 0, and no two
Crumbs decode to the same value other than 0. So a Crumb with data decodes like no other Crumb. -/
def Obligations.DecodeLosesOnlyZeroDataIndex : Prop :=
  (∀ (i : Nibble) (s : State), Decodes s (mkCrumb i 0) 0#64) ∧
  (∀ (c : Crumb) (v : Source) (s : State), Decodes s c v → crumbData c ≠ 0#4 → v ≠ 0#64) ∧
  (∀ (c c' : Crumb) (v : Source) (s s' : State), Decodes s c v → Decodes s' c' v → v ≠ 0#64 → c = c')

/-- R91: the OR of the sixteen decoded nibbles of a source is the source, and every bit lies in exactly one of the sixteen
windows. -/
def Obligations.SixteenCrumbsRebuildSource : Prop :=
  (∀ k : Fin 64, ∃ i : Fin 16, 4 * i.val ≤ k.val ∧ k.val < 4 * i.val + 4 ∧
    ∀ j : Fin 16, 4 * j.val ≤ k.val → k.val < 4 * j.val + 4 → j = i) ∧
  ∀ (src : Source) (s s' : State), ∃ v : Fin 16 → Source,
    (∀ i : Fin 16, ∃ c, Encodes s (BitVec.ofNat 8 i) src c ∧ Decodes s' c (v i)) ∧
    (List.ofFn v).foldl (· ||| ·) 0#64 = src

/-- R92: encoding a decoded Crumb again at its index gives the same Crumb. -/
def Obligations.ReencodingIsStable : Prop :=
  ∀ (idx : Index) (src : Source) (s s' s'' : State), idx.toNat < 16 →
    ∃ c v, Encodes s idx src c ∧ Decodes s' c v ∧ Encodes s'' idx v c
end

