-- ==== Sys2Proof/Laws/State.lean ====
section
/-! SUPPORT. One lemma per field of State for each update of it, so that no proof unfolds a record update. -/

namespace Sys2Proof.Machine

@[simp] theorem State.present_inputs (s : State) (q : Request) (rest : List Request) :
    (s.present q rest).inputs = q := rfl
@[simp] theorem State.present_outputs (s : State) (q : Request) (rest : List Request) :
    (s.present q rest).outputs = s.outputs := rfl
@[simp] theorem State.present_pending (s : State) (q : Request) (rest : List Request) :
    (s.present q rest).pending = rest := rfl
@[simp] theorem State.present_observed (s : State) (q : Request) (rest : List Request) :
    (s.present q rest).observed = s.observed := rfl

@[simp] theorem State.respond_inputs (s : State) (r : Response) : (s.respond r).inputs = s.inputs := rfl
@[simp] theorem State.respond_outputs (s : State) (r : Response) : (s.respond r).outputs = r := rfl
@[simp] theorem State.respond_pending (s : State) (r : Response) : (s.respond r).pending = s.pending := rfl
@[simp] theorem State.respond_observed (s : State) (r : Response) :
    (s.respond r).observed = s.observed ++ [r] := rfl

@[simp] theorem State.presentNext_inputs (s : State) (q : Request) : (s.presentNext q).inputs = s.inputs := rfl
@[simp] theorem State.presentNext_outputs (s : State) (q : Request) : (s.presentNext q).outputs = s.outputs := rfl
@[simp] theorem State.presentNext_pending (s : State) (q : Request) :
    (s.presentNext q).pending = q :: s.pending := rfl
@[simp] theorem State.presentNext_observed (s : State) (q : Request) :
    (s.presentNext q).observed = s.observed := rfl

end Sys2Proof.Machine
end

