-- ==== Sys2Proof/Laws/Ops.lean ====
section
/-! SUPPORT. What each shared operation can do, said once: proofs cite these lemmas instead of unfolding the operation. -/

namespace Sys2Proof.Machine

/-- The bounds test of the high nibble is the comparison with 16. -/
theorem encInvalid_eq_true_iff (idx : Index) : encInvalid idx = true ↔ 16 ≤ idx.toNat := by
  revert idx; decide

theorem encInvalid_of_valid {idx : Index} (h : idx.toNat < 16) : encInvalid idx = false := by
  have := encInvalid_eq_true_iff idx
  cases hv : encInvalid idx <;> simp_all; omega

theorem complete_eq_next {v : BitVec 64} {s t : State} :
    complete v s = .next t ↔ t = s.respond { result := v, errInvalidIndex := errNone } :=
  ⟨fun h => by cases h; rfl, fun h => h ▸ rfl⟩

theorem raiseInvalidIndex_eq_next {s t : State} :
    raiseInvalidIndex s = .next t ↔ t = s.respond { result := 0, errInvalidIndex := errInvalid } :=
  ⟨fun h => by cases h; rfl, fun h => h ▸ rfl⟩

theorem crumbEncoder_of_valid {idx : Index} (h : idx.toNat < 16) (src : Source) :
    crumbEncoder idx src = { encCrumb := encMerged idx src, encInvalid := false } := by
  simp [crumbEncoder, encInvalid_of_valid h]

theorem crumbEncoder_encInvalid (idx : Index) (src : Source) :
    (crumbEncoder idx src).encInvalid = encInvalid idx := rfl

theorem fetch_of_cons {s : State} {q : Request} {rest : List Request} (h : s.pending = q :: rest) :
    fetch s = some (decodeRequest q, s.present q rest) := by
  simp [fetch, h]

theorem fetch_of_nil {s : State} (h : s.pending = []) : fetch s = none := by
  simp [fetch, h]

/-- Everything an operation that completes can do: it answers some response, and nothing else. -/
theorem exec_next_cases {i : Instr} {s t : State} (h : exec i s = .next t) :
    (∃ idx src, i = .encode idx src ∧ 16 ≤ idx.toNat ∧ t = s.respond ⟨0, errInvalid⟩) ∨
    (∃ idx src, (i = .encode idx src ∨ i = .encodeUnchecked idx src) ∧ idx.toNat < 16 ∧
      t = s.respond ⟨packByte (encMerged idx src), errNone⟩) ∨
    (∃ c, i = .decode c ∧ t = s.respond ⟨crumbDecoder c, errNone⟩) ∨
    (∃ c, i = .raw c ∧ t = s.respond ⟨packByte c, errNone⟩) := by
  cases i with
  | encode idx src =>
    by_cases hv : idx.toNat < 16
    · refine .inr (.inl ⟨idx, src, .inl rfl, hv, ?_⟩)
      simpa [exec, execEncode, crumbEncoder_of_valid hv, complete_eq_next] using h
    · have hi := (encInvalid_eq_true_iff idx).2 (Nat.le_of_not_lt hv)
      refine .inl ⟨idx, src, rfl, Nat.le_of_not_lt hv, ?_⟩
      simpa [exec, execEncode, crumbEncoder_encInvalid, hi, raiseInvalidIndex_eq_next] using h
  | encodeUnchecked idx src =>
    by_cases hv : idx.toNat < 16
    · refine .inr (.inl ⟨idx, src, .inr rfl, hv, ?_⟩)
      simpa [exec, execEncodeUnchecked, crumbEncoder_of_valid hv, complete_eq_next] using h
    · have hi := (encInvalid_eq_true_iff idx).2 (Nat.le_of_not_lt hv)
      simp [exec, execEncodeUnchecked, crumbEncoder_encInvalid, hi, refusePrecondition] at h
  | decode c => exact .inr (.inr (.inl ⟨c, rfl, complete_eq_next.1 h⟩))
  | raw c => exact .inr (.inr (.inr ⟨c, rfl, complete_eq_next.1 h⟩))

end Sys2Proof.Machine
end

