-- ==== Sys2Proof/Laws/PerInstr.lean ====
section
/-! SUPPORT. The per-instruction family EncodedRequest: decoding the full request of an operation gives the operation
back, whatever its operands (30_encoding.md R50, R58). -/

namespace Sys2Proof.Laws.EncodedRequest

def Statement (i : Instr) : Prop := decodeRequest (encodeRequest i) = i

theorem encode (index : Index) (source : Source) : Statement (.encode index source) := rfl
theorem encodeUnchecked (index : Index) (source : Source) : Statement (.encodeUnchecked index source) := rfl
theorem decode (crumb : Crumb) : Statement (.decode crumb) := rfl
theorem raw (crumb : Crumb) : Statement (.raw crumb) := rfl

end Sys2Proof.Laws.EncodedRequest
end

