-- ==== Sys2Proof/Laws/Run.lean ====
section
/-! SUPPORT. A run, one step at a time, and that it is the host interface's run of the machine. -/

namespace Sys2Proof

open Machine

theorem runSteps_succ_of_next {s t : State} (k : Nat) (h : step s = .next t) :
    runSteps (k + 1) s = runSteps k t := by
  simp [runSteps, h]

theorem runSteps_succ_of_refused {s : State} {r : Refusal} (k : Nat) (h : step s = .refused r) :
    runSteps (k + 1) s = .refused r := by
  simp [runSteps, h]

theorem runSteps_eq_core_run (k : Nat) (s : State) : runSteps k s = Host.Core.run core k s := by
  induction k generalizing s with
  | zero => rfl
  | succ k ih =>
    cases h : step s with
    | next t =>
      have h' : core.step s = .next t := h
      simpa [runSteps, h, Host.Core.run, h'] using ih t
    | fault f =>
      have h' : core.step s = .fault f := h
      simp [runSteps, h, Host.Core.run, h']; rfl
    | refused r =>
      have h' : core.step s = .refused r := h
      simp [runSteps, h, Host.Core.run, h']; rfl

end Sys2Proof
end

