-- ==== Sys2Proof/Tests/Slice0.lean ====
section
/-! SUPPORT. Tests: expected values are those of spec/95_test_vectors.md unless the comment says otherwise; and for each
statement with hypotheses, a witness that meets them. -/

namespace Sys2Proof.Tests

open Machine

/-- A request pending on a machine just reset. -/
def ask (q : Request) : State := State.reset.presentNext q

/-- The response to one request. -/
def answer (q : Request) : Option Response := responseOf (step (ask q))

/-! WellFormed smoke: the one check refuses a violated precondition (EU7), and nothing else. -/

theorem test_wellFormed_refuses_unchecked_16 : (Instr.encodeUnchecked 16 0xFF).wellFormed = false := by decide
theorem test_wellFormed_accepts_checked_16 : (Instr.encode 16 0xFF).wellFormed = true := by decide

/-! Decoding of words written out from R50 (op in bits 1:0) and log 5 (index, source, crumb on the bytes above). -/

theorem test_decode_encode_word : decode 0x00000000000000000FF0100#88 = .encode 1 0xFF := by decide
theorem test_decode_encodeUnchecked_word :
    decode 0x00FFFFFFFFFFFFFFFF0E01#88 = .encodeUnchecked 14 0xFFFFFFFFFFFFFFFF := by decide
theorem test_decode_decode_word : decode 0x1F00000000000000000002#88 = .decode 0x1F := by decide
theorem test_decode_raw_word : decode 0x5AFFFFFFFFFFFFFFFFFF03#88 = .raw 0x5A := by decide

/-! ENCODE: E28 (even index, the next nibble must not leak) and E31 (smallest invalid index). -/

theorem test_encode_E28 : answer ⟨0b00, 8, 0xDEADBEEFCAFEF00D, 0⟩ = some ⟨0x8F, 0⟩ := by decide
theorem test_encode_E31 : answer ⟨0b00, 16, 0xFF, 0⟩ = some ⟨0, 1⟩ := by decide

/-! ENCODE_UNCHECKED: EU6 (odd index) and EU9 (refused). -/

theorem test_encodeUnchecked_EU6 : answer ⟨0b01, 5, 0x0123456789ABCDEF, 0⟩ = some ⟨0x5A, 0⟩ := by decide
theorem test_encodeUnchecked_EU9 :
    step (ask ⟨0b01, 64, 0xFFFFFFFFFFFFFFFF, 0⟩) = .refused .preconditionViolation := by rfl

/-! DECODE: DV14 (odd index, high half) and DV9 (even index, low half). -/

theorem test_decode_DV14 : answer ⟨0b10, 200, 0xFFFFFFFFFFFFFFFF, 0x9F⟩ = some ⟨0xF000000000, 0⟩ := by decide
theorem test_decode_DV9 : answer ⟨0b10, 0, 0, 0xA5⟩ = some ⟨0x50000000000, 0⟩ := by decide

/-! RAW: W6 (ignored fields) and W3. -/

theorem test_raw_W6 : answer ⟨0b11, 255, 0xFFFFFFFFFFFFFFFF, 0x5A⟩ = some ⟨0x5A, 0⟩ := by decide
theorem test_raw_W3 : answer ⟨0b11, 0, 0, 0xFF⟩ = some ⟨0xFF, 0⟩ := by decide

/-! A row's bare word, placed as the host's check places it, is what the next step runs. -/

theorem test_placed_word_runs :
    responseOf (step (State.reset.withFetchWord 8 2)) = some ⟨0, 0⟩ ∧ decodeTableWord 8 2 = some (.decode 0) := by
  decide

/-! Witnesses: concrete states and operands that meet a statement's hypotheses, at the ends of their ranges. -/

/-- Two requests the codec answers, and one it refuses. -/
abbrev qEncode : Request := ⟨0b00, 15, 0xF000000000000000, 0⟩
abbrev qRaw : Request := ⟨0b11, 0, 0, 0xFF⟩
abbrev qRefused : Request := ⟨0b01, 16, 0, 0⟩

/-- A state with the requests `qs` pending. -/
abbrev withPending (qs : List Request) : State := { State.reset with pending := qs }

theorem witness_OpSelectsOperation :
    (⟨0b00, 0, 0, 0⟩ : Request).op = 0b00#2 ∧ (⟨0b01, 0, 0, 0⟩ : Request).op = 0b01#2 ∧
    (⟨0b10, 0, 0, 0⟩ : Request).op = 0b10#2 ∧ (⟨0b11, 0, 0, 0⟩ : Request).op = 0b11#2 := by decide

theorem witness_EncodeOfDecodeZeroesIgnoredFields :
    (⟨0b01, 255, 1, 0xFF⟩ : Request).op = 0b01#2 ∧ (⟨0b11, 255, 1, 0xFF⟩ : Request).op = 0b11#2 := by decide

theorem witness_IgnoredFieldsDoNotMatter :
    Request.sameReadFields ⟨0b00, 5, 7, 0⟩ ⟨0b00, 5, 7, 0xFF⟩ ∧
    Request.sameReadFields ⟨0b10, 0, 0, 0x1F⟩ ⟨0b10, 200, 0xFFFFFFFFFFFFFFFF, 0x1F⟩ := by
  simp [Request.sameReadFields]

theorem witness_StepRunsDecodedRequest : (withPending [qEncode, qRaw]).pending = qEncode :: [qRaw] := rfl

theorem witness_StepWithoutRequestIsIdle : State.reset.pending = [] := rfl

theorem witness_StepRunsPlacedWord : decodeTableWord 8 1 = some (.encodeUnchecked 0 0) := by decide

theorem witness_StepMatchesCodec :
    (withPending [qEncode]).pending = [qEncode] ∧ codec qEncode = .ok ⟨0xFF, 0⟩ ∧
    (withPending [qRefused]).pending = [qRefused] ∧ codec qRefused = .error .preconditionViolation := by decide

theorem witness_StepMovesOneRequest :
    (withPending [qRaw, qRefused]).pending = qRaw :: [qRefused] ∧ ∃ t, step (withPending [qRaw, qRefused]) = .next t :=
  ⟨rfl, _, rfl⟩

theorem witness_RunObservesCodecOfEachRequest :
    (withPending [qEncode, qRaw, qRefused]).pending = [qEncode, qRaw] ++ [qRefused] ∧
    List.Forall₂ (fun q r => codec q = .ok r) [qEncode, qRaw] [⟨0xFF, 0⟩, ⟨0xFF, 0⟩] :=
  ⟨rfl, .cons (by decide) (.cons (by decide) .nil)⟩

theorem witness_ReorderingKeepsEachResponse :
    [qEncode, qRaw].Perm [qRaw, qEncode] ∧
    (∃ t, runSteps 2 (withPending [qEncode, qRaw]) = .next t) ∧
    (∃ t, runSteps 2 (withPending [qRaw, qEncode]) = .next t) :=
  ⟨List.Perm.swap _ _ _, ⟨_, rfl⟩, ⟨_, rfl⟩⟩

theorem witness_RunEndsAtRefusedRequest :
    (withPending [qRaw, qRefused, qRaw]).pending = [qRaw] ++ qRefused :: [qRaw] ∧
    List.Forall₂ (fun q r => codec q = .ok r) [qRaw] [⟨0xFF, 0⟩] ∧ codec qRefused = .error .preconditionViolation :=
  ⟨rfl, .cons (by decide) .nil, by decide⟩

theorem witness_OutcomeIgnoresHistory :
    (withPending [qRaw]).pending = qRaw :: [] ∧
    ({ inputs := ⟨0b00, 16, 0, 0⟩, outputs := ⟨0, 1⟩, pending := [qRaw, qRefused], observed := [⟨0, 1⟩] } : State).pending
      = qRaw :: [qRefused] := by decide

theorem witness_PresentingAgainGivesSameResponse :
    (withPending [qEncode, qEncode]).pending = qEncode :: qEncode :: [] ∧
    ∃ t, step (withPending [qEncode, qEncode]) = .next t := ⟨rfl, _, rfl⟩

theorem witness_StepKeepsOutputsFollowInputs :
    OutputsFollowInputs (withPending [qEncode]) ∧ ∃ t, step (withPending [qEncode]) = .next t :=
  ⟨by decide, _, rfl⟩

/-- Both ends of the valid and of the invalid indices. -/
theorem witness_CheckedEncodeByIndex :
    ((0 : Index).toNat < 16 ∧ (15 : Index).toNat < 16) ∧ (16 ≤ (16 : Index).toNat ∧ 16 ≤ (255 : Index).toNat) ∧
    (⟨0b00, 255, 0, 0⟩ : Request).op = 0b00#2 := by decide

theorem witness_UncheckedEncodeByIndex :
    ((0 : Index).toNat < 16 ∧ (15 : Index).toNat < 16) ∧ (16 ≤ (16 : Index).toNat ∧ 16 ≤ (255 : Index).toNat) ∧
    (⟨0b01, 255, 0, 0⟩ : Request).op = 0b01#2 := by decide

theorem witness_UncheckedAgreesWithChecked : (15 : Index).toNat < 16 ∧ 16 ≤ (16 : Index).toNat := by decide

theorem witness_DecodeOfEveryCrumb : (⟨0b10, 255, 0, 0xFF⟩ : Request).op = 0b10#2 := by decide

theorem witness_RawReturnsCrumb : (⟨0b11, 255, 0, 0xFF⟩ : Request).op = 0b11#2 := by decide

theorem witness_EveryOperationOnlyAnswers : ∃ t, exec (.decode 0xFF) State.reset = .next t := ⟨_, rfl⟩

theorem witness_ErrorBitExactlyOnInvalidIndex :
    ((∃ t, exec (.encode 16 0) State.reset = .next t) ∧ ∃ idx src, Instr.encode 16 0 = .encode idx src ∧ 16 ≤ idx.toNat) ∧
    ((∃ t, exec (.encode 15 0) State.reset = .next t) ∧
      ¬ ∃ idx src, Instr.encode 15 0 = .encode idx src ∧ 16 ≤ idx.toNat) := by
  refine ⟨⟨⟨_, rfl⟩, 16, 0, rfl, by decide⟩, ⟨_, rfl⟩, ?_⟩
  rintro ⟨idx, src, h, hi⟩
  cases h
  exact absurd hi (by decide)

theorem witness_RefusedExactlyOnViolatedPrecondition :
    exec (.encodeUnchecked 16 0) State.reset = .refused .preconditionViolation ∧
    16 ≤ (16 : Index).toNat ∧ (Instr.encode 255 0).wellFormed = true := ⟨rfl, by decide, by decide⟩

theorem witness_EightBitResultsAreZeroExtended :
    ((∃ t, exec (.raw 0xFF) State.reset = .next t) ∧ ¬ ∃ c, Instr.raw 0xFF = .decode c) ∧
    ∃ t, exec (.encode 255 0) State.reset = .next t ∧ t.outputs.errInvalidIndex = 1#1 :=
  ⟨⟨⟨_, rfl⟩, fun ⟨_, h⟩ => nomatch h⟩, _, rfl, rfl⟩

/-- Sources that differ only outside the nibble: for index 0, and for an invalid index. -/
theorem witness_EncodeReadsOnlyItsNibble :
    (0xF7 : Source).extractLsb' (4 * (0 : Index).toNat) 4 = (0x07 : Source).extractLsb' (4 * (0 : Index).toNat) 4 ∧
    (0xF7 : Source).extractLsb' (4 * (16 : Index).toNat) 4 = (0x07 : Source).extractLsb' (4 * (16 : Index).toNat) 4 := by
  decide

theorem witness_EncoderStepsSelectShiftClearMerge :
    ((15 : Index).toNat < 16 ∧ (15 : Index).toNat % 2 = 1) ∧ ((0 : Index).toNat < 16 ∧ (0 : Index).toNat % 2 = 0) := by
  decide

theorem witness_EncoderClosedForm : (0 : Index).toNat < 16 ∧ (15 : Index).toNat < 16 := by decide

theorem witness_UnmaskedDatapathCorruptsIndex : (14 : Index).toNat < 16 ∧ (14 : Index).toNat % 2 = 0 := by decide

theorem witness_NibbleLiesInItsByte : (0 < 16 ∧ 0 % 2 = 0) ∧ (15 < 16 ∧ 15 % 2 = 1) := by decide

theorem witness_DecodeOfEncodeKeepsOneNibble :
    (15 : Index).toNat < 16 ∧ (0 : Nat) < 16 ∧ (0 : Nat) ≠ (15 : Index).toNat := by decide

theorem witness_DecodedBitsStayInWindow :
    (15 : Index).toNat < 16 ∧ 59 < 4 * (crumbIndex 0xFF).toNat ∧ 4 * (crumbIndex 0x0F).toNat + 4 ≤ 4 := by decide

theorem witness_InjectiveAtFixedIndex : (15 : Index).toNat < 16 := by decide

theorem witness_SingleNibbleSurvives : (15 : Index).toNat < 16 := by decide

theorem witness_DecodeLosesOnlyZeroDataIndex :
    (Decodes State.reset 0x11 0x10 ∧ crumbData 0x11 ≠ 0#4) ∧
    (Decodes State.reset 0xFF 0xF000000000000000 ∧ crumbData 0xFF ≠ 0#4 ∧ (0xF000000000000000 : Source) ≠ 0#64) :=
  ⟨⟨⟨_, rfl, rfl, by decide⟩, by decide⟩, ⟨_, rfl, rfl, by decide⟩, by decide, by decide⟩

theorem witness_SixteenCrumbsRebuildSource :
    4 * (15 : Fin 16).val ≤ (63 : Fin 64).val ∧ (63 : Fin 64).val < 4 * (15 : Fin 16).val + 4 := by decide

theorem witness_ReencodingIsStable : (15 : Index).toNat < 16 := by decide

end Sys2Proof.Tests
end

section
/-! PROOFS. The step against the spec's function `Codec` (10_state.md R27): the two sub-blocks have their closed forms
(40_encode.md R66, 41_decode.md R78), so each operation answers as `codec` says, and so does the step. -/

namespace Sys2Proof.Machine

/-! The closed forms of the sub-blocks -/

/-- Selecting byte `bsel` and shifting by `par * 4` moves to bit `4 * idx`, the low bit of the nibble (R53, R61, R62). -/
theorem eight_mul_indexByte_add_indexShift {idx : Index} (h : idx.toNat < 16) :
    8 * (indexByte idx).toNat + indexShift idx = 4 * idx.toNat := by
  revert idx; decide

/-- The shift stays in the low half of the selected byte, so a nibble shifted down is not cut off by the byte's end. -/
theorem indexShift_le_four (idx : Index) : indexShift idx ≤ 4 := by
  have := (indexParity idx).isLt
  unfold indexShift; omega

/-- The shifted byte has the nibble of the index in its low half (R62). -/
theorem encShifted_getLsbD {idx : Index} (h : idx.toNat < 16) (src : Source) {k : Nat} (hk : k < 4) :
    (encShifted idx src).getLsbD k = (nibbleAt src idx.toNat).getLsbD k := by
  have hpos := eight_mul_indexByte_add_indexShift h
  have hin : indexShift idx + k < 8 := by have := indexShift_le_four idx; omega
  simp [encShifted, encSelected, byteAt, nibbleAt, hk, hin, ← hpos, Nat.add_assoc]

/-- Clearing the high half leaves the nibble of the index alone (R63). -/
theorem encMasked_eq_nibbleAt {idx : Index} (h : idx.toNat < 16) (src : Source) :
    encMasked idx src = (nibbleAt src idx.toNat).setWidth 8 := by
  have hmask : ∀ k < 8, (0x0F : Byte).getLsbD k = decide (k < 4) := by decide
  refine BitVec.eq_of_getLsbD_eq fun k hk => ?_
  rw [encMasked, BitVec.getLsbD_and, hmask k hk, BitVec.getLsbD_setWidth, decide_eq_true hk, Bool.true_and]
  by_cases hlow : k < 4
  · simp [encShifted_getLsbD h src hlow, hlow]
  · simp [hlow, BitVec.getLsbD_of_ge _ k (Nat.le_of_not_lt hlow)]

/-- R66: for a valid index the merged byte is the Crumb of the closed form. -/
theorem encMerged_eq_crumbClosedForm {idx : Index} (h : idx.toNat < 16) (src : Source) :
    encMerged idx src = crumbClosedForm idx src := by
  have hmerge : ∀ a b : Nibble, b.setWidth 8 ||| a.setWidth 8 <<< 4 = mkCrumb a b := by decide
  rw [encMerged, encMasked_eq_nibbleAt h, hmerge, crumbClosedForm]

/-- R78: the decoded value is the data nibble in its place, checked for each of the 256 Crumbs. -/
theorem crumbDecoder_eq_valueClosedForm (c : Crumb) : crumbDecoder c = valueClosedForm c := by
  revert c; decide

/-! Each operation, by its cases -/

theorem exec_encode_of_valid {idx : Index} (h : idx.toNat < 16) (src : Source) (s : State) :
    exec (.encode idx src) s = .next (s.respond ⟨packByte (crumbClosedForm idx src), errNone⟩) := by
  simp [exec, execEncode, crumbEncoder_of_valid h, encMerged_eq_crumbClosedForm h, complete]

theorem exec_encode_of_invalid {idx : Index} (h : 16 ≤ idx.toNat) (src : Source) (s : State) :
    exec (.encode idx src) s = .next (s.respond ⟨0, errInvalid⟩) := by
  simp [exec, execEncode, crumbEncoder_encInvalid, (encInvalid_eq_true_iff idx).2 h, raiseInvalidIndex]

theorem exec_encodeUnchecked_of_valid {idx : Index} (h : idx.toNat < 16) (src : Source) (s : State) :
    exec (.encodeUnchecked idx src) s = .next (s.respond ⟨packByte (crumbClosedForm idx src), errNone⟩) := by
  simp [exec, execEncodeUnchecked, crumbEncoder_of_valid h, encMerged_eq_crumbClosedForm h, complete]

theorem exec_encodeUnchecked_of_invalid {idx : Index} (h : 16 ≤ idx.toNat) (src : Source) (s : State) :
    exec (.encodeUnchecked idx src) s = .refused .preconditionViolation := by
  simp [exec, execEncodeUnchecked, crumbEncoder_encInvalid, (encInvalid_eq_true_iff idx).2 h, refusePrecondition]

theorem exec_decode (c : Crumb) (s : State) :
    exec (.decode c) s = .next (s.respond ⟨valueClosedForm c, errNone⟩) := by
  simp [exec, execDecode, crumbDecoder_eq_valueClosedForm, complete]

theorem exec_raw (c : Crumb) (s : State) : exec (.raw c) s = .next (s.respond ⟨packByte c, errNone⟩) := rfl

/-! `Codec` and the request decoder, by the value of `op` -/

theorem opSelect_cases (o : OpSelect) : o = 0b00#2 ∨ o = 0b01#2 ∨ o = 0b10#2 ∨ o = 0b11#2 := by
  revert o; decide

section
variable {q : Request}

theorem decodeRequest_of_op_encode (h : q.op = 0b00#2) : decodeRequest q = .encode q.index q.source := by
  simp [decodeRequest, h]

theorem decodeRequest_of_op_encodeUnchecked (h : q.op = 0b01#2) :
    decodeRequest q = .encodeUnchecked q.index q.source := by
  simp [decodeRequest, h]

theorem decodeRequest_of_op_decode (h : q.op = 0b10#2) : decodeRequest q = .decode q.crumb := by
  simp [decodeRequest, h]

theorem decodeRequest_of_op_raw (h : q.op = 0b11#2) : decodeRequest q = .raw q.crumb := by
  simp [decodeRequest, h]

theorem codec_encode_of_valid (h : q.op = 0b00#2) (hv : q.index.toNat < 16) :
    codec q = .ok ⟨packByte (crumbClosedForm q.index q.source), errNone⟩ := by
  simp [codec, h, hv]

theorem codec_encode_of_invalid (h : q.op = 0b00#2) (hv : 16 ≤ q.index.toNat) :
    codec q = .ok ⟨0, errInvalid⟩ := by
  simp [codec, h, Nat.not_lt.2 hv]

theorem codec_encodeUnchecked_of_valid (h : q.op = 0b01#2) (hv : q.index.toNat < 16) :
    codec q = .ok ⟨packByte (crumbClosedForm q.index q.source), errNone⟩ := by
  simp [codec, h, hv]

theorem codec_encodeUnchecked_of_invalid (h : q.op = 0b01#2) (hv : 16 ≤ q.index.toNat) :
    codec q = .error .preconditionViolation := by
  simp [codec, h, Nat.not_lt.2 hv]

theorem codec_decode (h : q.op = 0b10#2) : codec q = .ok ⟨valueClosedForm q.crumb, errNone⟩ := by
  simp [codec, h]

theorem codec_raw (h : q.op = 0b11#2) : codec q = .ok ⟨packByte q.crumb, errNone⟩ := by
  simp [codec, h]

end

/-- `Codec` refuses ENCODE_UNCHECKED with an index of 16 or more, by the violated precondition, and nothing else (R27). -/
theorem codec_eq_error_iff {q : Request} {e : Refusal} :
    codec q = .error e ↔ q.op = 0b01#2 ∧ 16 ≤ q.index.toNat ∧ e = .preconditionViolation := by
  rcases opSelect_cases q.op with h | h | h | h
  · rcases Nat.lt_or_ge q.index.toNat 16 with hv | hv
    · simp [codec_encode_of_valid h hv, h]
    · simp [codec_encode_of_invalid h hv, h]
  · rcases Nat.lt_or_ge q.index.toNat 16 with hv | hv
    · simp [codec_encodeUnchecked_of_valid h hv, Nat.not_le.2 hv]
    · simp [codec_encodeUnchecked_of_invalid h hv, h, hv, eq_comm]
  · simp [codec_decode h, h]
  · simp [codec_raw h, h]

/-! The step -/

/-- The machine's outcome, at `s`, for an outcome of `Codec`: the response driven and sampled, or the refusal (R27). -/
def State.answer (s : State) : Except Refusal Response → Host.Outcome State Fault Refusal
  | .ok r => .next (s.respond r)
  | .error e => .refused e

@[simp] theorem State.answer_ok (s : State) (r : Response) : s.answer (.ok r) = .next (s.respond r) := rfl
@[simp] theorem State.answer_error (s : State) (e : Refusal) : s.answer (.error e) = .refused e := rfl

/-- Executing the operation of a request answers with `Codec` of that request (R27), whatever the state. -/
theorem exec_decodeRequest (q : Request) (s : State) : exec (decodeRequest q) s = s.answer (codec q) := by
  rcases opSelect_cases q.op with h | h | h | h
  · rw [decodeRequest_of_op_encode h]
    rcases Nat.lt_or_ge q.index.toNat 16 with hv | hv
    · rw [exec_encode_of_valid hv, codec_encode_of_valid h hv, State.answer_ok]
    · rw [exec_encode_of_invalid hv, codec_encode_of_invalid h hv, State.answer_ok]
  · rw [decodeRequest_of_op_encodeUnchecked h]
    rcases Nat.lt_or_ge q.index.toNat 16 with hv | hv
    · rw [exec_encodeUnchecked_of_valid hv, codec_encodeUnchecked_of_valid h hv, State.answer_ok]
    · rw [exec_encodeUnchecked_of_invalid hv, codec_encodeUnchecked_of_invalid h hv, State.answer_error]
  · rw [decodeRequest_of_op_decode h, exec_decode, codec_decode h, State.answer_ok]
  · rw [decodeRequest_of_op_raw h, exec_raw, codec_raw h, State.answer_ok]

theorem step_of_cons {s : State} {q : Request} {rest : List Request} (h : s.pending = q :: rest) :
    step s = exec (decodeRequest q) (s.present q rest) := by
  simp [step, fetch_of_cons h]

/-- The step on a pending request presents it and answers with `Codec` of it. -/
theorem step_eq_answer_codec {s : State} {q : Request} {rest : List Request} (h : s.pending = q :: rest) :
    step s = (s.present q rest).answer (codec q) := by
  rw [step_of_cons h, exec_decodeRequest]

/-- Settles O9: the step is `codec` of the pending request by `step_eq_answer_codec`, and `codec` refuses exactly where
`codec_eq_error_iff` says. -/
theorem stepMatchesCodec : Obligations.StepMatchesCodec := by
  intro s q rest hpending
  have hstep := step_eq_answer_codec hpending
  refine ⟨fun r hr => ?_, fun e he => ?_, ?_⟩
  · exact ⟨(s.present q rest).respond r, by rw [hstep, hr, State.answer_ok], State.respond_outputs _ r⟩
  · obtain ⟨-, -, rfl⟩ := codec_eq_error_iff.1 he
    exact ⟨by rw [hstep, he, State.answer_error], rfl⟩
  · simp [codec_eq_error_iff]

end Sys2Proof.Machine
end

section
/-! PROOFS. The byte and nibble views of a 64-bit value (20_memory.md R32, R33): bits taken from a byte are bits of the
value, the eight bytes determine the value, and `le64` is the value with the given bytes. -/

namespace Sys2Proof.Machine

/-- Bits of byte `k` are bits of the value, from bit `8 * k` on (R32). -/
theorem byteAt_extractLsb' (v : Source) (k : Nat) {start len : Nat} (h : start + len ≤ 8) :
    (byteAt v k).extractLsb' start len = v.extractLsb' (8 * k + start) len := by
  refine BitVec.eq_of_getLsbD_eq fun j hj => ?_
  have hin : start + j < 8 := by omega
  simp [byteAt, hj, hin, Nat.add_assoc]

/-- A 64-bit value is determined by its eight bytes: bit `n` is bit `n % 8` of byte `n / 8`. -/
theorem eq_of_byteAt_eq {v w : Source} (h : ∀ k < 8, byteAt v k = byteAt w k) : v = w := by
  refine BitVec.eq_of_getLsbD_eq fun n hn => ?_
  have hbit : (byteAt v (n / 8)).getLsbD (n % 8) = (byteAt w (n / 8)).getLsbD (n % 8) := by rw [h _ (by omega)]
  have hlow : n % 8 < 8 := Nat.mod_lt n (by decide)
  simpa [byteAt, hlow, Nat.div_add_mod] using hbit

/-- Extraction from `le64`, at the sum of widths that its appends have. The library's append lemmas match that sum and
not 64, so `simp` must use them without `Nat.reduceAdd`. -/
theorem extractLsb'_le64 (buf : Vector Byte 8) (start len : Nat) :
    (le64 buf).extractLsb' start len =
      BitVec.extractLsb' start len
        (buf[7] ++ buf[6] ++ buf[5] ++ buf[4] ++ buf[3] ++ buf[2] ++ buf[1] ++ buf[0]) := rfl

/-- `LE64(buf)` has `buf[k]` as its byte `k`: the bytes below `k` are passed over, those above are cut off (R32). -/
theorem byteAt_le64 (buf : Vector Byte 8) (k : Nat) (hk : k < 8) : byteAt (le64 buf) k = buf[k] := by
  rw [byteAt, extractLsb'_le64]
  interval_cases k <;>
    simp [-Nat.reduceAdd, BitVec.extractLsb'_append_eq_of_le, BitVec.extractLsb'_append_eq_right]

/-- `LE64` of the eight bytes of a value is the value (R32). -/
theorem le64_bytes (v : Source) :
    le64 #v[byteAt v 0, byteAt v 1, byteAt v 2, byteAt v 3, byteAt v 4, byteAt v 5, byteAt v 6, byteAt v 7] = v := by
  refine eq_of_byteAt_eq fun k hk => ?_
  rw [byteAt_le64 _ k hk]
  interval_cases k <;> rfl

/-- Nibble `i` starts at bit `4 * (i % 2)` of byte `i / 2`, for every `i` (R33). -/
theorem nibbleAt_eq_extractLsb'_byteAt (v : Source) (i : Nat) :
    nibbleAt v i = (byteAt v (i / 2)).extractLsb' (4 * (i % 2)) 4 := by
  have hfit : 4 * (i % 2) + 4 ≤ 8 := by omega
  have hpos : 8 * (i / 2) + 4 * (i % 2) = 4 * i := by omega
  rw [byteAt_extractLsb' v (i / 2) hfit, hpos, nibbleAt]

/-- Settles O35: `byteAt` is the byte by definition, `le64_bytes` the one round trip and `byteAt_le64` the other. -/
theorem byteViewIsLittleEndian : Obligations.ByteViewIsLittleEndian :=
  ⟨fun _ _ => rfl, le64_bytes, fun buf k => byteAt_le64 buf k k.isLt⟩

/-- Settles O36: the position of the nibble in its byte, `nibbleAt_eq_extractLsb'_byteAt`, at each parity of `i`. -/
theorem nibbleLiesInItsByte : Obligations.NibbleLiesInItsByte := by
  intro v i _
  refine ⟨rfl, fun heven => ?_, fun hodd => ?_⟩
  · rw [nibbleAt_eq_extractLsb'_byteAt, heven]
  · rw [nibbleAt_eq_extractLsb'_byteAt, hodd]

end Sys2Proof.Machine
end

section
/-! PROOFS. The operation of a request (30_encoding.md R50, R51): `op` alone selects it, it holds exactly the fields it
reads, and the outcome depends on it alone, so the fields it ignores do not matter. -/

namespace Sys2Proof.Machine

/-! The operation holds `op` and the fields it reads, and nothing else -/

/-- Decoding the full request of an operation gives the operation back (R58). -/
theorem decodeRequest_encodeRequest (i : Instr) : decodeRequest (encodeRequest i) = i := by
  cases i with
  | encode idx src => exact Laws.EncodedRequest.encode idx src
  | encodeUnchecked idx src => exact Laws.EncodedRequest.encodeUnchecked idx src
  | decode c => exact Laws.EncodedRequest.decode c
  | raw c => exact Laws.EncodedRequest.raw c

/-- No two values of `op` select the same operation: `op` is read back from it (R50). -/
theorem encodeRequest_decodeRequest_op (q : Request) : (encodeRequest (decodeRequest q)).op = q.op := by
  rcases opSelect_cases q.op with h | h | h | h
  · rw [decodeRequest_of_op_encode h, h]; rfl
  · rw [decodeRequest_of_op_encodeUnchecked h, h]; rfl
  · rw [decodeRequest_of_op_decode h, h]; rfl
  · rw [decodeRequest_of_op_raw h, h]; rfl

theorem op_eq_of_decodeRequest_eq {p q : Request} (h : decodeRequest p = decodeRequest q) : p.op = q.op := by
  rw [← encodeRequest_decodeRequest_op p, h, encodeRequest_decodeRequest_op]

/-- Under one value of `op` the operations agree where their operands do, and these are the fields read. -/
theorem decodeRequest_eq_iff_of_op_eq {p q : Request} (hop : p.op = q.op) :
    decodeRequest p = decodeRequest q ↔ p.sameReadFields q := by
  rcases opSelect_cases q.op with h | h | h | h
  · simp [decodeRequest_of_op_encode (hop.trans h), decodeRequest_of_op_encode h, Request.sameReadFields, hop, h]
  · simp [decodeRequest_of_op_encodeUnchecked (hop.trans h), decodeRequest_of_op_encodeUnchecked h,
      Request.sameReadFields, hop, h]
  · simp [decodeRequest_of_op_decode (hop.trans h), decodeRequest_of_op_decode h, Request.sameReadFields, hop, h]
  · simp [decodeRequest_of_op_raw (hop.trans h), decodeRequest_of_op_raw h, Request.sameReadFields, hop, h]

/-- Two requests select the same operation, operands included, exactly when they agree on `op` and the fields read. -/
theorem decodeRequest_eq_iff_sameReadFields {p q : Request} :
    decodeRequest p = decodeRequest q ↔ p.sameReadFields q :=
  ⟨fun h => (decodeRequest_eq_iff_of_op_eq (op_eq_of_decodeRequest_eq h)).1 h,
    fun h => (decodeRequest_eq_iff_of_op_eq h.1).2 h⟩

/-! The outcome depends on the operation alone -/

/-- The response of an answer is that of `Codec`, whatever the state it is given in. -/
@[simp] theorem responseOf_answer (s : State) (x : Except Refusal Response) : responseOf (s.answer x) = x.toOption := by
  cases x <;> rfl

@[simp] theorem answer_eq_refused_iff {s : State} {x : Except Refusal Response} {e : Refusal} :
    s.answer x = .refused e ↔ x = .error e := by
  cases x <;> simp

/-- An operation answers `Codec` of its full request, whatever the state: no ignored field and no field of the state
enters the outcome. -/
theorem exec_eq_answer_codec (i : Instr) (s : State) : exec i s = s.answer (codec (encodeRequest i)) := by
  rw [← exec_decodeRequest, decodeRequest_encodeRequest]

theorem responseOf_exec_eq (i : Instr) (s t : State) : responseOf (exec i s) = responseOf (exec i t) := by
  simp [exec_eq_answer_codec]

theorem exec_eq_refused_iff_of_state (i : Instr) (s t : State) (e : Refusal) :
    exec i s = .refused e ↔ exec i t = .refused e := by
  simp [exec_eq_answer_codec]

/-- Settles O5: the first clause is `decodeRequest_eq_iff_sameReadFields`; requests that agree on the fields read so run
the same operation, in states that differ in the presented request only, and its outcome does not depend on the state. -/
theorem ignoredFieldsDoNotMatter : Obligations.IgnoredFieldsDoNotMatter := by
  intro p q s rest
  refine ⟨decodeRequest_eq_iff_sameReadFields, fun hsame => ?_⟩
  have hdec := decodeRequest_eq_iff_sameReadFields.2 hsame
  have hp : step { s with pending := p :: rest } = exec (decodeRequest q) _ := hdec ▸ step_of_cons rfl
  have hq : step { s with pending := q :: rest } = exec (decodeRequest q) _ := step_of_cons rfl
  rw [hp, hq]
  exact ⟨responseOf_exec_eq _ _ _, exec_eq_refused_iff_of_state _ _ _⟩

/-- Settles O1: one lemma for each value of `op`, and `opSelect_cases` that there is no other. -/
theorem opSelectsOperation : Obligations.OpSelectsOperation := fun q =>
  ⟨decodeRequest_of_op_encode, decodeRequest_of_op_encodeUnchecked, decodeRequest_of_op_decode, decodeRequest_of_op_raw,
    opSelect_cases q.op⟩

end Sys2Proof.Machine
end

section
/-! PROOFS. The encoder sub-block (40_encode.md R61 to R66) for a valid index: each step of it, as bits of the source
and of the index, and the closed form; then the two encode operations by their index (R68, R69). -/

namespace Sys2Proof.Machine

/-! Bounds detection -/

/-- R65: `enc_invalid` looks at the high half of the index. -/
theorem encInvalid_eq_true_iff_high_ne_zero (idx : Index) :
    encInvalid idx = true ↔ idx.extractLsb' 4 4 ≠ 0b0000#4 := by
  simp [encInvalid, indexValid]

/-- Settles O28: `enc_invalid` is the bounds test for every index, by the high half and by the comparison with 16. -/
theorem encoderDetectsBounds : Obligations.EncoderDetectsBounds := by
  intro idx src
  rw [crumbEncoder_encInvalid]
  exact ⟨encInvalid_eq_true_iff idx, encInvalid_eq_true_iff_high_ne_zero idx⟩

/-! The steps of the encoder -/

theorem indexByte_toNat {idx : Index} (h : idx.toNat < 16) : (indexByte idx).toNat = idx.toNat / 2 := by
  revert idx; decide

theorem indexShift_eq (idx : Index) : indexShift idx = idx.toNat % 2 * 4 := by
  simp [indexShift, indexParity]

/-- R61: the selected byte is byte `idx div 2` of the source. -/
theorem encSelected_eq_byteAt {idx : Index} (h : idx.toNat < 16) (src : Source) :
    encSelected idx src = byteAt src (idx.toNat / 2) := by
  rw [encSelected, indexByte_toNat h]

/-- R62: the shift is by 4 for an odd index and by 0 for an even one. -/
theorem encShifted_eq_shiftRight (idx : Index) (src : Source) :
    encShifted idx src = encSelected idx src >>> (idx.toNat % 2 * 4) := by
  rw [encShifted, indexShift_eq]

theorem encShifted_of_odd {idx : Index} (hodd : idx.toNat % 2 = 1) (src : Source) :
    encShifted idx src = encSelected idx src >>> 4 := by
  rw [encShifted_eq_shiftRight, hodd]

theorem encShifted_of_even {idx : Index} (heven : idx.toNat % 2 = 0) (src : Source) :
    encShifted idx src = encSelected idx src := by
  rw [encShifted_eq_shiftRight, heven, Nat.zero_mul, BitVec.ushiftRight_zero]

/-- R62, odd: the high nibble comes down and zeros fill its place. -/
theorem shiftRight_four_nibbles (b : Byte) :
    (b >>> 4).extractLsb' 4 4 = 0#4 ∧ (b >>> 4).extractLsb' 0 4 = b.extractLsb' 4 4 := by
  revert b; decide

/-- R62, even: the high nibble left in the shifted byte is the next nibble of the source, which R63 clears. -/
theorem encShifted_high_of_even {idx : Index} (h : idx.toNat < 16) (heven : idx.toNat % 2 = 0) (src : Source) :
    (encShifted idx src).extractLsb' 4 4 = nibbleAt src (idx.toNat + 1) := by
  have hbyte : (idx.toNat + 1) / 2 = idx.toNat / 2 := by omega
  have hhigh : (idx.toNat + 1) % 2 = 1 := by omega
  rw [encShifted_of_even heven, encSelected_eq_byteAt h, nibbleAt_eq_extractLsb'_byteAt, hbyte, hhigh]

/-- R63: the mask clears the high nibble and keeps the low one. -/
theorem and_lowMask_nibbles (b : Byte) :
    (b &&& 0x0F#8).extractLsb' 4 4 = 0#4 ∧ (b &&& 0x0F#8).extractLsb' 0 4 = b.extractLsb' 0 4 := by
  revert b; decide

theorem encMasked_low {idx : Index} (h : idx.toNat < 16) (src : Source) :
    (encMasked idx src).extractLsb' 0 4 = nibbleAt src idx.toNat := by
  have hlow : ∀ n : Nibble, (n.setWidth 8).extractLsb' 0 4 = n := by decide
  rw [encMasked_eq_nibbleAt h, hlow]

/-- R64: the shift at 8 bits drops the high half of the index, so the whole index may be merged for its field. -/
theorem encMerged_eq_or_shiftLeft (idx : Index) (src : Source) :
    encMerged idx src = encMasked idx src ||| (idx <<< 4) := by
  have hdrop : ∀ i : Index, (indexField i).setWidth 8 <<< 4 = i <<< 4 := by decide
  rw [encMerged, hdrop]

/-! The closed form -/

theorem crumbEncoder_encCrumb_of_valid {idx : Index} (h : idx.toNat < 16) (src : Source) :
    (crumbEncoder idx src).encCrumb = encMerged idx src := by
  rw [crumbEncoder_of_valid h]

/-- R66, as fields. -/
theorem encCrumb_eq_crumbClosedForm {idx : Index} (h : idx.toNat < 16) (src : Source) :
    (crumbEncoder idx src).encCrumb = crumbClosedForm idx src := by
  rw [crumbEncoder_encCrumb_of_valid h, encMerged_eq_crumbClosedForm h]

theorem mkCrumb_toNat (a b : Nibble) : (mkCrumb a b).toNat = a.toNat * 16 + b.toNat := by
  revert a b; decide

theorem indexField_toNat {idx : Index} (h : idx.toNat < 16) : (indexField idx).toNat = idx.toNat := by
  simpa [indexField] using h

theorem nibbleAt_toNat (v : Source) (i : Nat) : (nibbleAt v i).toNat = (v.toNat >>> (4 * i)) % 16 :=
  BitVec.extractLsb'_toNat _ _ v

/-- R66, as arithmetic. -/
theorem crumbClosedForm_toNat {idx : Index} (h : idx.toNat < 16) (src : Source) :
    (crumbClosedForm idx src).toNat = idx.toNat * 16 + (src.toNat >>> (4 * idx.toNat)) % 16 := by
  rw [crumbClosedForm, mkCrumb_toNat, indexField_toNat h, nibbleAt_toNat]

/-- Settles O30: both readings of `crumbClosedForm`, which is the output of the encoder. -/
theorem encoderClosedForm : Obligations.EncoderClosedForm := by
  intro idx src h
  rw [encCrumb_eq_crumbClosedForm h]
  exact ⟨rfl, crumbClosedForm_toNat h src⟩

/-- Settles O29: one lemma for each step (R61 to R64), and for the last clause the closed form with the masked byte's
low nibble for the nibble of the source. -/
theorem encoderStepsSelectShiftClearMerge : Obligations.EncoderStepsSelectShiftClearMerge := by
  intro idx src h
  obtain ⟨hmaskHigh, hmaskLow⟩ := and_lowMask_nibbles (encShifted idx src)
  refine ⟨encSelected_eq_byteAt h src, encShifted_eq_shiftRight idx src, fun hodd => ?odd, fun heven => ?even, rfl,
    hmaskHigh, hmaskLow, encMasked_low h src, ?merge, ?fields⟩
  case odd =>
    rw [encShifted_of_odd hodd]
    exact shiftRight_four_nibbles (encSelected idx src)
  case even => exact ⟨encShifted_of_even heven src, encShifted_high_of_even h heven src⟩
  case merge => rw [crumbEncoder_encCrumb_of_valid h, encMerged_eq_or_shiftLeft]
  case fields => rw [encCrumb_eq_crumbClosedForm h, encMasked_low h]; rfl

/-! The two encode operations -/

/-- An operation that only drives and samples `r` answers it. -/
theorem answers_of_exec_eq_respond {i : Instr} {s : State} {r : Response} (h : exec i s = .next (s.respond r)) :
    Answers i s r :=
  ⟨s.respond r, h, State.respond_outputs s r⟩

/-- Settles O18: the checked encode on each side of the bound, and the `op` that selects it. -/
theorem checkedEncodeByIndex : Obligations.CheckedEncodeByIndex :=
  ⟨fun _ src s h => answers_of_exec_eq_respond (exec_encode_of_valid h src s),
    fun _ src s h => answers_of_exec_eq_respond (exec_encode_of_invalid h src s),
    fun _ => decodeRequest_of_op_encode⟩

/-- Settles O19: the unchecked encode on each side of the bound, and the `op` that selects it. -/
theorem uncheckedEncodeByIndex : Obligations.UncheckedEncodeByIndex :=
  ⟨fun _ src s h => answers_of_exec_eq_respond (exec_encodeUnchecked_of_valid h src s),
    fun _ src s h => exec_encodeUnchecked_of_invalid h src s,
    fun _ => decodeRequest_of_op_encodeUnchecked⟩

end Sys2Proof.Machine
end

section
/-! PROOFS. The decoder sub-block (41_decode.md R72 to R77): the fields it takes from the Crumb, and the bytes of the value
it builds; then the operation DECODE (R80). -/

namespace Sys2Proof.Machine

/-! The fields -/

/-- R72: the mask keeps the low half of the Crumb, its data nibble. -/
theorem decData_eq_crumbData (c : Crumb) : decData c = (crumbData c).setWidth 8 := by
  revert c; decide

/-- R73: the shift at 8 bits fills with zeros, so no mask is needed after it. -/
theorem decIndex_eq_crumbIndex (c : Crumb) : decIndex c = (crumbIndex c).setWidth 8 := by
  revert c; decide

theorem decIndex_toNat (c : Crumb) : (decIndex c).toNat = (crumbIndex c).toNat := by
  rw [decIndex_eq_crumbIndex, BitVec.toNat_setWidth_of_le (by decide)]

/-- R74, as arithmetic: half of a four-bit index fits in three bits. -/
theorem decTarget_toNat (c : Crumb) : (decTarget c).toNat = (crumbIndex c).toNat / 2 := by
  have hfit : (crumbIndex c).toNat / 2 < 2 ^ 3 := by have := (crumbIndex c).isLt; omega
  rw [decTarget, BitVec.toNat_setWidth, BitVec.toNat_udiv, decIndex_toNat]
  exact Nat.mod_eq_of_lt hfit

/-- R74, as bits: halving the index drops bit 4 of the Crumb, its low bit. -/
theorem decTarget_eq_extractLsb' (c : Crumb) : decTarget c = c.extractLsb' 5 3 := by
  refine BitVec.eq_of_toNat_eq ?_
  rw [decTarget_toNat, crumbIndex, BitVec.extractLsb'_toNat, BitVec.extractLsb'_toNat]
  have := c.isLt
  omega

/-- Settles O32: data and index are a mask and a shift by definition and the two halves of the Crumb by their lemmas; the
target byte is half of the index, as bits and as a number. -/
theorem decoderExtractsFields : Obligations.DecoderExtractsFields := fun c =>
  ⟨rfl, decData_eq_crumbData c, rfl, decIndex_eq_crumbIndex c, decTarget_eq_extractLsb' c, decTarget_toNat c⟩

/-! The value -/

/-- R77: the buffer holds the placed byte at the target offset and its initial zero elsewhere. -/
theorem decBuffer_getElem (c : Crumb) (k : Nat) (hk : k < 8) :
    (decBuffer c)[k] = if k = (decTarget c).toNat then decByte c else 0#8 := by
  simp [decBuffer, Vector.getElem_set, eq_comm]

/-- Settles O34: byte `k` of the decoded value is byte `k` of the buffer, by `byteAt_le64`. -/
theorem decodedValueIsPlacedByte : Obligations.DecodedValueIsPlacedByte := by
  intro c k
  have hbyte : (crumbDecoder c).extractLsb' (8 * k) 8 = (decBuffer c)[k.val] := byteAt_le64 (decBuffer c) k k.isLt
  rw [hbyte, decBuffer_getElem]

/-! The operation -/

/-- Settles O21: DECODE only drives and samples the closed form (R78), and the `op` that selects it. -/
theorem decodeOfEveryCrumb : Obligations.DecodeOfEveryCrumb :=
  ⟨fun c s => answers_of_exec_eq_respond (exec_decode c s), fun _ => decodeRequest_of_op_decode⟩

end Sys2Proof.Machine
end

section
/-! PROOFS. The raw accessor (42_raw.md R81): the pass-through path answers the Crumb it is given. -/

namespace Sys2Proof.Machine

/-- Settles O22: RAW only drives and samples the packed Crumb, and the `op` that selects it. -/
theorem rawReturnsCrumb : Obligations.RawReturnsCrumb :=
  ⟨fun c s => answers_of_exec_eq_respond (exec_raw c s), fun _ => decodeRequest_of_op_raw⟩

end Sys2Proof.Machine
end

section
/-! PROOFS. The laws of the codec (43_laws.md): `E` and `D` are the closed forms of the two sub-blocks, a decoded value is
one nibble in its place, and each law is read off the nibbles of that value. -/

namespace Sys2Proof.Machine

/-! `E` and `D` are the closed forms -/

theorem packByte_extractLsb' (c : Crumb) : (packByte c).extractLsb' 0 8 = c := by
  revert c; decide

/-- `E(i, s)` is the Crumb of R66, whatever the state. -/
theorem encodes_iff {idx : Index} (h : idx.toNat < 16) {src : Source} {s : State} {c : Crumb} :
    Encodes s idx src c ↔ c = crumbClosedForm idx src := by
  rw [Encodes, exec_encode_of_valid h]
  constructor
  · rintro ⟨_, ⟨rfl⟩, -, rfl⟩
    exact packByte_extractLsb' _
  · rintro rfl
    exact ⟨_, rfl, rfl, packByte_extractLsb' _⟩

/-- `D(c)` is the value of R78, whatever the state. -/
theorem decodes_iff {c : Crumb} {v : Source} {s : State} : Decodes s c v ↔ v = valueClosedForm c := by
  rw [Decodes, exec_decode]
  constructor
  · rintro ⟨_, ⟨rfl⟩, -, rfl⟩
    rfl
  · rintro rfl
    exact ⟨_, rfl, rfl, rfl⟩

theorem encodes_crumbClosedForm {idx : Index} (h : idx.toNat < 16) (src : Source) (s : State) :
    Encodes s idx src (crumbClosedForm idx src) :=
  (encodes_iff h).2 rfl

theorem decodes_valueClosedForm (c : Crumb) (s : State) : Decodes s c (valueClosedForm c) :=
  decodes_iff.2 rfl

/-! The fields of a Crumb -/

@[simp] theorem crumbIndex_mkCrumb (a b : Nibble) : crumbIndex (mkCrumb a b) = a := by
  revert a b; decide

@[simp] theorem crumbData_mkCrumb (a b : Nibble) : crumbData (mkCrumb a b) = b := by
  revert a b; decide

@[simp] theorem mkCrumb_crumbIndex_crumbData (c : Crumb) : mkCrumb (crumbIndex c) (crumbData c) = c := by
  revert c; decide

theorem crumb_eq_of_fields_eq {c c' : Crumb} (hindex : crumbIndex c = crumbIndex c')
    (hdata : crumbData c = crumbData c') : c = c' := by
  rw [← mkCrumb_crumbIndex_crumbData c, hindex, hdata, mkCrumb_crumbIndex_crumbData]

/-- At a fixed index the Crumb is equivalent to the nibble it holds. -/
theorem crumbClosedForm_eq_iff {idx : Index} {src src' : Source} :
    crumbClosedForm idx src = crumbClosedForm idx src' ↔ nibbleAt src idx.toNat = nibbleAt src' idx.toNat := by
  refine ⟨fun h => ?_, fun h => by rw [crumbClosedForm, h, crumbClosedForm]⟩
  simpa [crumbClosedForm] using congrArg crumbData h

/-! A nibble in its place -/

/-- The value with the nibble `n` at position `i` and zero elsewhere: `zext_64(n) << (4*i)` (R78, R88). -/
def placeNibble (i : Nat) (n : Nibble) : Source := n.setWidth 64 <<< (4 * i)

theorem valueClosedForm_eq_placeNibble (c : Crumb) :
    valueClosedForm c = placeNibble (crumbIndex c).toNat (crumbData c) := rfl

/-- Decoding an encoded nibble puts it in its place. -/
theorem valueClosedForm_crumbClosedForm {idx : Index} (h : idx.toNat < 16) (src : Source) :
    valueClosedForm (crumbClosedForm idx src) = placeNibble idx.toNat (nibbleAt src idx.toNat) := by
  rw [valueClosedForm_eq_placeNibble, crumbClosedForm, crumbIndex_mkCrumb, crumbData_mkCrumb, indexField_toNat h]

theorem decodes_crumbClosedForm {idx : Index} (h : idx.toNat < 16) (src : Source) (s : State) :
    Decodes s (crumbClosedForm idx src) (placeNibble idx.toNat (nibbleAt src idx.toNat)) :=
  decodes_iff.2 (valueClosedForm_crumbClosedForm h src).symm

theorem placeNibble_getLsbD (i : Nat) (n : Nibble) {k : Nat} (hk : k < 64) :
    (placeNibble i n).getLsbD k = (decide (4 * i ≤ k) && n.getLsbD (k - 4 * i)) := by
  simp [placeNibble, hk, ← decide_not]

/-- R86: no bit outside the window of the position. -/
theorem placeNibble_getLsbD_outside {i : Nat} (n : Nibble) {k : Nat} (h : k < 4 * i ∨ 4 * i + 4 ≤ k) :
    (placeNibble i n).getLsbD k = false := by
  rcases Nat.lt_or_ge k 64 with hk | hk
  · rw [placeNibble_getLsbD i n hk]
    rcases h with hbelow | habove
    · rw [decide_eq_false (by omega), Bool.false_and]
    · rw [BitVec.getLsbD_of_ge n _ (by omega), Bool.and_false]
  · exact BitVec.getLsbD_of_ge _ k hk

@[simp] theorem nibbleAt_placeNibble_same {i : Nat} (hi : i < 16) (n : Nibble) : nibbleAt (placeNibble i n) i = n := by
  refine BitVec.eq_of_getLsbD_eq fun k hk => ?_
  simp [nibbleAt, hk, placeNibble_getLsbD i n (show 4 * i + k < 64 by omega)]

theorem nibbleAt_placeNibble_of_ne {i j : Nat} (hne : j ≠ i) (n : Nibble) : nibbleAt (placeNibble i n) j = 0#4 := by
  refine BitVec.eq_of_getLsbD_eq fun k hk => ?_
  simp [nibbleAt, placeNibble_getLsbD_outside n (show 4 * j + k < 4 * i ∨ 4 * i + 4 ≤ 4 * j + k by omega)]

@[simp] theorem placeNibble_zero (i : Nat) : placeNibble i 0#4 = 0#64 := by
  simp [placeNibble]

/-- R84's expression for the nibble of a source in its place. -/
theorem placeNibble_nibbleAt (src : Source) (i : Nat) :
    placeNibble i (nibbleAt src i) = ((src >>> (4 * i)) &&& 0xF#64) <<< (4 * i) := by
  have hmask : (nibbleAt src i).setWidth 64 = (src >>> (4 * i)) &&& 0xF#64 := by
    refine BitVec.eq_of_toNat_eq ?_
    rw [BitVec.toNat_setWidth_of_le (by decide), nibbleAt_toNat, BitVec.toNat_and, BitVec.toNat_ushiftRight]
    exact (Nat.and_two_pow_sub_one_eq_mod _ 4).symm
  rw [placeNibble, hmask]

/-- A source's nibble in its place has the bits of the source inside its window and no other. -/
theorem placeNibble_nibbleAt_getLsbD (src : Source) (i : Nat) {k : Nat} (hk : k < 64) :
    (placeNibble i (nibbleAt src i)).getLsbD k = (decide (k / 4 = i) && src.getLsbD k) := by
  by_cases hwin : k / 4 = i
  · have hlow : 4 * i ≤ k := by omega
    have hin : k - 4 * i < 4 := by omega
    simp [placeNibble_getLsbD i _ hk, nibbleAt, hwin, hlow, hin, Nat.add_sub_cancel' hlow]
  · rw [placeNibble_getLsbD_outside _ (by omega), decide_eq_false hwin, Bool.false_and]

/-! Decoding and the two fields -/

/-- The data of a Crumb is the nibble of its decoded value at its index. -/
theorem nibbleAt_valueClosedForm (c : Crumb) : nibbleAt (valueClosedForm c) (crumbIndex c).toNat = crumbData c :=
  nibbleAt_placeNibble_same (crumbIndex c).isLt _

theorem valueClosedForm_of_data_zero {c : Crumb} (h : crumbData c = 0#4) : valueClosedForm c = 0#64 := by
  rw [valueClosedForm_eq_placeNibble, h, placeNibble_zero]

/-- R90: DECODE gives 0 for no Crumb but the sixteen with zero data. -/
theorem valueClosedForm_eq_zero_iff {c : Crumb} : valueClosedForm c = 0#64 ↔ crumbData c = 0#4 := by
  refine ⟨fun h => ?_, valueClosedForm_of_data_zero⟩
  rw [← nibbleAt_valueClosedForm, h, nibbleAt, BitVec.extractLsb'_zero]

/-- Crumbs of one index with the same decoded value are equal: the value holds their data at that index. -/
theorem crumb_eq_of_value_eq_of_index_eq {c c' : Crumb} (hvalue : valueClosedForm c = valueClosedForm c')
    (hindex : crumbIndex c = crumbIndex c') : c = c' := by
  refine crumb_eq_of_fields_eq hindex ?_
  rw [← nibbleAt_valueClosedForm c, hvalue, hindex, nibbleAt_valueClosedForm]

/-- R90: a value other than 0 has its one nonzero nibble at the index of every Crumb that decodes to it. -/
theorem crumbIndex_eq_of_value_eq {c c' : Crumb} (hvalue : valueClosedForm c = valueClosedForm c')
    (hne : valueClosedForm c ≠ 0#64) : crumbIndex c = crumbIndex c' := by
  by_contra hindex
  have hpos : (crumbIndex c).toNat ≠ (crumbIndex c').toNat := fun h => hindex (BitVec.eq_of_toNat_eq h)
  have hdata : crumbData c = 0#4 := by
    rw [← nibbleAt_valueClosedForm c, hvalue, valueClosedForm_eq_placeNibble, nibbleAt_placeNibble_of_ne hpos]
  exact hne (valueClosedForm_of_data_zero hdata)

/-- The index field of a Crumb as an index operand is that field again, and so valid. -/
theorem crumbIndex_setWidth_toNat (c : Crumb) : ((crumbIndex c).setWidth 8).toNat = (crumbIndex c).toNat :=
  BitVec.toNat_setWidth_of_le (by decide)

/-- R89: encoding a decoded Crumb at its own index gives the Crumb. -/
theorem crumbClosedForm_valueClosedForm (c : Crumb) :
    crumbClosedForm ((crumbIndex c).setWidth 8) (valueClosedForm c) = c := by
  have hfield : ∀ n : Nibble, indexField (n.setWidth 8) = n := by decide
  rw [crumbClosedForm, hfield, crumbIndex_setWidth_toNat, nibbleAt_valueClosedForm, mkCrumb_crumbIndex_crumbData]

/-! The laws of encode and decode -/

/-- Settles O20: both encodes answer the closed form on valid indices, and each has its own lemma on the others. -/
theorem uncheckedAgreesWithChecked : Obligations.UncheckedAgreesWithChecked := by
  intro idx src s
  refine ⟨fun hvalid => ⟨?_, crumbClosedForm idx src, encodes_crumbClosedForm hvalid src s, ?_⟩, fun hinvalid => ⟨?_, ?_⟩⟩
  · rw [exec_encodeUnchecked_of_valid hvalid, exec_encode_of_valid hvalid]
  · exact answers_of_exec_eq_respond (exec_encodeUnchecked_of_valid hvalid src s)
  · exact answers_of_exec_eq_respond (exec_encode_of_invalid hinvalid src s)
  · exact exec_encodeUnchecked_of_invalid hinvalid src s

/-- Settles O38: the decoded value is the nibble in its place, and no other nibble holds anything. -/
theorem decodeOfEncodeKeepsOneNibble : Obligations.DecodeOfEncodeKeepsOneNibble := fun _ src s s' h =>
  ⟨_, _, encodes_crumbClosedForm h src s, decodes_crumbClosedForm h src s', placeNibble_nibbleAt src _,
    fun _ _ hne => nibbleAt_placeNibble_of_ne hne _⟩

/-- Settles O39: a Crumb's decoded value, encoded or not, is one placed nibble. -/
theorem decodedBitsStayInWindow : Obligations.DecodedBitsStayInWindow :=
  ⟨fun c s => ⟨_, decodes_valueClosedForm c s, fun _ hk => placeNibble_getLsbD_outside _ hk⟩,
    fun _ src s s' h => ⟨_, _, encodes_crumbClosedForm h src s, decodes_crumbClosedForm h src s',
      fun _ hk => placeNibble_getLsbD_outside _ hk⟩⟩

/-- Settles O40: the Crumb of an index holds the nibble, and so does its decoded value at that index. -/
theorem injectiveAtFixedIndex : Obligations.InjectiveAtFixedIndex := by
  refine ⟨fun idx src src' s s' h => ?_, fun i d d' s s' => ?_⟩
  · exact ⟨_, _, encodes_crumbClosedForm h src s, encodes_crumbClosedForm h src' s', crumbClosedForm_eq_iff⟩
  · refine ⟨_, _, decodes_valueClosedForm _ s, decodes_valueClosedForm _ s', fun hvalue => ?_⟩
    have hcrumb : mkCrumb i d = mkCrumb i d' := crumb_eq_of_value_eq_of_index_eq hvalue (by simp)
    simpa using congrArg crumbData hcrumb

/-- Settles O41: the nibble read back from its place is put in the same place. -/
theorem singleNibbleSurvives : Obligations.SingleNibbleSurvives := by
  intro idx n s s' h
  have hdec := decodes_crumbClosedForm h (placeNibble idx.toNat n) s'
  rw [nibbleAt_placeNibble_same h] at hdec
  exact ⟨_, encodes_crumbClosedForm h (placeNibble idx.toNat n) s, hdec⟩

/-- Settles O42: the round trip `crumbClosedForm_valueClosedForm`, at an index that is valid for being a nibble. -/
theorem everyByteIsEncoded : Obligations.EveryByteIsEncoded := by
  intro c s s'
  have hvalid : ((crumbIndex c).setWidth 8).toNat < 16 := crumbIndex_setWidth_toNat c ▸ (crumbIndex c).isLt
  exact ⟨_, decodes_valueClosedForm c s, (encodes_iff hvalid).2 (crumbClosedForm_valueClosedForm c).symm⟩

/-- Settles O43: a value is 0 exactly for zero data, and a value other than 0 determines the index and then the data. -/
theorem decodeLosesOnlyZeroDataIndex : Obligations.DecodeLosesOnlyZeroDataIndex := by
  refine ⟨fun i s => ?_, fun c v s hdec hdata => ?_, fun c c' v s s' hdec hdec' hne => ?_⟩
  · exact decodes_iff.2 (valueClosedForm_of_data_zero (crumbData_mkCrumb i 0)).symm
  · rw [decodes_iff.1 hdec]
    exact mt valueClosedForm_eq_zero_iff.1 hdata
  · obtain rfl := decodes_iff.1 hdec
    have hvalue := decodes_iff.1 hdec'
    exact crumb_eq_of_value_eq_of_index_eq hvalue (crumbIndex_eq_of_value_eq hvalue hne)

/-- Settles O45: the Crumb depends on the source's nibble alone, and the decoded value has the same nibble there. -/
theorem reencodingIsStable : Obligations.ReencodingIsStable := by
  intro idx src s s' s'' h
  refine ⟨_, _, encodes_crumbClosedForm h src s, decodes_crumbClosedForm h src s', (encodes_iff h).2 ?_⟩
  rw [crumbClosedForm_eq_iff, nibbleAt_placeNibble_same h]

/-! Reconstruction -/

/-- The sixteen windows partition the 64 bits: bit `k` lies in the window of position `k / 4` and in no other. -/
theorem bit_lies_in_exactly_one_window (k : Fin 64) : ∃ i : Fin 16, 4 * i.val ≤ k.val ∧ k.val < 4 * i.val + 4 ∧
    ∀ j : Fin 16, 4 * j.val ≤ k.val → k.val < 4 * j.val + 4 → j = i :=
  ⟨⟨k / 4, by omega⟩, by dsimp only; omega, by dsimp only; omega,
    fun j hlow hhigh => Fin.ext (by dsimp only; omega)⟩

/-- A bit of an OR over a list is set exactly when it is set in the start value or in a member. -/
theorem getLsbD_foldl_or (l : List Source) (a : Source) (k : Nat) :
    (l.foldl (· ||| ·) a).getLsbD k = (a.getLsbD k || l.any (·.getLsbD k)) := by
  induction l generalizing a with
  | nil => simp
  | cons v l ih => simp [ih, Bool.or_assoc]

/-- R91: the OR of the nibbles of a source, each in its place, is the source. -/
theorem foldl_or_placeNibble (src : Source) :
    (List.ofFn fun i : Fin 16 => placeNibble i (nibbleAt src i)).foldl (· ||| ·) 0#64 = src := by
  refine BitVec.eq_of_getLsbD_eq fun k hk => ?_
  rw [getLsbD_foldl_or, BitVec.getLsbD_zero, Bool.false_or, Bool.eq_iff_iff, List.any_eq_true]
  constructor
  · rintro ⟨v, hv, hbit⟩
    obtain ⟨i, rfl⟩ := List.mem_ofFn.1 hv
    rw [placeNibble_nibbleAt_getLsbD src i hk, Bool.and_eq_true] at hbit
    exact hbit.2
  · intro hbit
    refine ⟨_, List.mem_ofFn.2 ⟨⟨k / 4, by omega⟩, rfl⟩, ?_⟩
    rw [placeNibble_nibbleAt_getLsbD src _ hk, hbit, decide_eq_true rfl, Bool.and_self]

/-- Settles O44: the windows partition the bits, and the decoded values are the source's nibbles in their places. -/
theorem sixteenCrumbsRebuildSource : Obligations.SixteenCrumbsRebuildSource := by
  refine ⟨bit_lies_in_exactly_one_window, fun src s s' => ⟨fun i => placeNibble i (nibbleAt src i), fun i => ?_,
    foldl_or_placeNibble src⟩⟩
  have hidx : (BitVec.ofNat 8 i).toNat = i := Nat.mod_eq_of_lt (by omega)
  have hvalid : (BitVec.ofNat 8 i).toNat < 16 := hidx.trans_lt i.isLt
  have hdec := decodes_crumbClosedForm hvalid src s'
  rw [hidx] at hdec
  exact ⟨_, encodes_crumbClosedForm hvalid src s, hdec⟩

end Sys2Proof.Machine
end

section
/-! PROOFS. The block's one error (60_exceptions.md R94, R95): InvalidIndex, raised by ENCODE with an index of 16 or more
and by nothing else. -/

namespace Sys2Proof.Machine

/-- R95: an operation that answers and is no ENCODE with an index of 16 or more answers without error. -/
theorem errInvalidIndex_eq_errNone {i : Instr} {s t : State} (h : exec i s = .next t)
    (hvalid : ¬ ∃ idx src, i = .encode idx src ∧ 16 ≤ idx.toNat) : t.outputs.errInvalidIndex = errNone := by
  rcases exec_next_cases h with ⟨idx, src, hi, hinvalid, -⟩ | ⟨_, _, -, -, rfl⟩ | ⟨_, -, rfl⟩ | ⟨_, -, rfl⟩
  case inl => exact absurd ⟨idx, src, hi, hinvalid⟩ hvalid
  all_goals rw [State.respond_outputs]

/-- Settles O24: the error response of ENCODE on an invalid index (R94), and R95 for every other answer. -/
theorem errorBitExactlyOnInvalidIndex : Obligations.ErrorBitExactlyOnInvalidIndex := by
  intro i s t h
  refine ⟨?_, errInvalidIndex_eq_errNone h⟩
  rintro ⟨idx, src, rfl, hinvalid⟩
  obtain rfl : s.respond ⟨0, errInvalid⟩ = t := by simpa [exec_encode_of_invalid hinvalid] using h
  exact ⟨rfl, rfl⟩

end Sys2Proof.Machine
end

section
/-! PROOFS. What came before a request (70_reset_and_hazards.md R114): the step on it is its operation, and the outcome
of an operation is `Codec` of it alone. -/

namespace Sys2Proof.Machine

/-- Settles O14: in both states the step runs the operation of the same request, `q`, and neither the response nor the
refusal of an operation depends on the state it runs in. -/
theorem outcomeIgnoresHistory : Obligations.OutcomeIgnoresHistory := by
  intro s s' q rest rest' hs hs'
  rw [step_of_cons hs, step_of_cons hs']
  exact ⟨responseOf_exec_eq _ _ _, exec_eq_refused_iff_of_state _ _ _⟩

end Sys2Proof.Machine
end

section
/-! PROOFS. The encoding of requests (30_encoding.md R47, R50, R51, R58) and their table words (the model's layout,
log 5): each port is read back from the bits it was written to, so the word, and with it the operation, survives. -/

namespace Sys2Proof.Machine

/-! The layout of the table word, port by port -/

/-- Extraction from a request's table word, at the sum of widths its appends have: the library's append lemmas match
that sum and not 88, so `simp` must use them without `Nat.reduceAdd`. -/
theorem extractLsb'_toTableWord (q : Request) (start len : Nat) :
    q.toTableWord.extractLsb' start len =
      BitVec.extractLsb' start len (q.crumb ++ q.source ++ q.index ++ (0#6 ++ q.op)) := rfl

theorem toTableWord_op (q : Request) : q.toTableWord.extractLsb' 0 2 = q.op := by
  simp [extractLsb'_toTableWord, -Nat.reduceAdd, BitVec.extractLsb'_append_eq_of_add_le]

theorem toTableWord_index (q : Request) : q.toTableWord.extractLsb' 8 8 = q.index := by
  simp [extractLsb'_toTableWord, -Nat.reduceAdd, BitVec.extractLsb'_append_eq_of_le,
    BitVec.extractLsb'_append_eq_right]

theorem toTableWord_source (q : Request) : q.toTableWord.extractLsb' 16 64 = q.source := by
  simp [extractLsb'_toTableWord, -Nat.reduceAdd, BitVec.extractLsb'_append_eq_of_le,
    BitVec.extractLsb'_append_eq_right]

theorem toTableWord_crumb (q : Request) : q.toTableWord.extractLsb' 80 8 = q.crumb := by
  simp [extractLsb'_toTableWord, -Nat.reduceAdd, BitVec.extractLsb'_append_eq_of_le]

/-- A request survives its table word whole: every port is read back from where it was written. -/
theorem ofTableWord_toTableWord (q : Request) : Request.ofTableWord q.toTableWord = q := by
  rw [Request.ofTableWord, toTableWord_op, toTableWord_index, toTableWord_source, toTableWord_crumb]

/-- Settles O3: a request survives its table word, and an operation its full request. -/
theorem decodeOfEncodeIsIdentity : Obligations.DecodeOfEncodeIsIdentity := by
  refine ⟨fun i => ?_, ofTableWord_toTableWord⟩
  rw [decode, encode, ofTableWord_toTableWord, decodeRequest_encodeRequest]

/-! Writing out a decoded request -/

/-- Settles O4: the request written out decodes to the same operation, so it agrees on the fields read; the others are
0 by the row of the operation. -/
theorem encodeOfDecodeZeroesIgnoredFields : Obligations.EncodeOfDecodeZeroesIgnoredFields := by
  intro q
  refine ⟨decodeRequest_eq_iff_sameReadFields.1 (decodeRequest_encodeRequest _), ?encodes, ?decodes⟩
  case encodes =>
    rintro (h | h)
    · rw [decodeRequest_of_op_encode h]; rfl
    · rw [decodeRequest_of_op_encodeUnchecked h]; rfl
  case decodes =>
    rintro (h | h)
    · rw [decodeRequest_of_op_decode h]; exact ⟨rfl, rfl⟩
    · rw [decodeRequest_of_op_raw h]; exact ⟨rfl, rfl⟩

/-- Settles O2: each of the eight words evaluates to its operation. -/
theorem writtenOutWordsDecode : Obligations.WrittenOutWordsDecode := by
  unfold Obligations.WrittenOutWordsDecode
  refine ⟨?_, ?_, ?_, ?_, ?_, ?_, ?_, ?_⟩ <;> decide

end Sys2Proof.Machine
end

section
/-! PROOFS. What an operation can do in any state (10_state.md R15, R27): it answers `Codec` of its full request and
changes nothing else, or it is refused for the violated precondition. -/

namespace Sys2Proof.Machine

/-! The outcomes of an operation -/

/-- A next state is an answer of `Codec`, driven and sampled, and nothing more. -/
theorem answer_eq_next_iff {s t : State} {x : Except Refusal Response} :
    s.answer x = .next t ↔ ∃ r, x = .ok r ∧ t = s.respond r := by
  cases x <;> simp [eq_comm]

theorem exec_eq_next_iff {i : Instr} {s t : State} :
    exec i s = .next t ↔ ∃ r, codec (encodeRequest i) = .ok r ∧ t = s.respond r := by
  rw [exec_eq_answer_codec, answer_eq_next_iff]

/-- R27, R57: the one refusal, and the operation it is raised by. -/
theorem exec_eq_refused_iff {i : Instr} {s : State} {e : Refusal} :
    exec i s = .refused e ↔
      (∃ idx src, i = .encodeUnchecked idx src ∧ 16 ≤ idx.toNat) ∧ e = .preconditionViolation := by
  rw [exec_eq_answer_codec, answer_eq_refused_iff, codec_eq_error_iff]
  cases i <;> simp [encodeRequest]

/-- R57: the contract excludes exactly the operations that are refused. -/
theorem wellFormed_iff_not_precondition_violated (i : Instr) :
    i.wellFormed = true ↔ ¬ ∃ idx src, i = .encodeUnchecked idx src ∧ 16 ≤ idx.toNat := by
  cases i with
  | encodeUnchecked idx src =>
    rw [Instr.wellFormed, decide_eq_true_iff]
    simp [Config.maxNibbleIndex]
  | encode idx src => simp [Instr.wellFormed]
  | decode c => simp [Instr.wellFormed]
  | raw c => simp [Instr.wellFormed]

/-- An operation answers exactly when it is not refused: there is no third outcome. -/
theorem exists_exec_eq_next_iff (i : Instr) (s : State) :
    (∃ t, exec i s = .next t) ↔ ¬ ∃ e, exec i s = .refused e := by
  rw [exec_eq_answer_codec]
  cases codec (encodeRequest i) <;> simp

/-- Settles O25: `exec_eq_refused_iff` for the refusal, and an operation meets its contract exactly when it is not
refused, which is when it answers. -/
theorem refusedExactlyOnViolatedPrecondition : Obligations.RefusedExactlyOnViolatedPrecondition := by
  intro i s
  have hrefused : (∃ r, exec i s = .refused r) ↔ ∃ idx src, i = .encodeUnchecked idx src ∧ 16 ≤ idx.toNat := by
    simp [exec_eq_refused_iff]
  refine ⟨hrefused, fun r h => (exec_eq_refused_iff.1 h).2, nofun, ?_⟩
  rw [exists_exec_eq_next_iff, hrefused, wellFormed_iff_not_precondition_violated]

/-- Settles O23: a next state is the old one with one response driven and sampled. -/
theorem everyOperationOnlyAnswers : Obligations.EveryOperationOnlyAnswers := by
  intro i s t h
  obtain ⟨r, -, rfl⟩ := exec_eq_next_iff.1 h
  exact ⟨rfl, rfl, rfl⟩

/-! The results -/

/-- R56: the packed byte fills bits 7:0 and leaves the rest 0. -/
theorem packByte_high (b : Byte) : (packByte b).extractLsb' 8 56 = 0#56 := by
  refine BitVec.eq_of_getLsbD_eq fun k _ => ?_
  simp [packByte]

/-- Settles O26: the result is 0 under an error, the decoded value for DECODE, and a packed byte otherwise. -/
theorem eightBitResultsAreZeroExtended : Obligations.EightBitResultsAreZeroExtended := by
  intro i s t h
  have hnoError : errNone ≠ 1#1 := by decide
  rcases exec_next_cases h with
    ⟨_, _, -, -, rfl⟩ | ⟨idx, src, -, -, rfl⟩ | ⟨c, rfl, rfl⟩ | ⟨c, -, rfl⟩
  case inl => exact ⟨fun _ => BitVec.extractLsb'_zero, fun _ => rfl⟩
  case inr.inl => exact ⟨fun _ => packByte_high _, fun herr => absurd herr hnoError⟩
  case inr.inr.inl => exact ⟨fun hdec => absurd ⟨c, rfl⟩ hdec, fun herr => absurd herr hnoError⟩
  case inr.inr.inr => exact ⟨fun _ => packByte_high _, fun herr => absurd herr hnoError⟩

/-- Settles O27: for a valid index both encodes answer the Crumb, which holds no other nibble of the source; for an
invalid one their outcomes do not mention the source. -/
theorem encodeReadsOnlyItsNibble : Obligations.EncodeReadsOnlyItsNibble := by
  intro idx src src' s hnibble
  rcases Nat.lt_or_ge idx.toNat 16 with hvalid | hinvalid
  · have hcrumb : crumbClosedForm idx src = crumbClosedForm idx src' := crumbClosedForm_eq_iff.2 hnibble
    simp only [exec_encode_of_valid hvalid, exec_encodeUnchecked_of_valid hvalid, hcrumb, and_self]
  · simp only [exec_encode_of_invalid hinvalid, exec_encodeUnchecked_of_invalid hinvalid, and_self]

end Sys2Proof.Machine
end

section
/-! PROOFS. The step (10_state.md R14, R17, R29): what it runs, what it leaves unchanged, and that it keeps the outputs
the function of the inputs. -/

namespace Sys2Proof.Machine

theorem step_of_nil {s : State} (h : s.pending = []) : step s = .next s := by
  simp [step, fetch_of_nil h]

/-- Everything a step on a pending request can do when it answers: the request is presented, and `Codec` of it is driven
and sampled. -/
theorem step_eq_next_iff {s t : State} {q : Request} {rest : List Request} (h : s.pending = q :: rest) :
    step s = .next t ↔ ∃ r, codec q = .ok r ∧ t = (s.present q rest).respond r := by
  rw [step_eq_answer_codec h, answer_eq_next_iff]

/-- Settles O6: the request is read off the input ports it was just presented on. -/
theorem stepRunsDecodedRequest : Obligations.StepRunsDecodedRequest := fun _ _ _ h => step_of_cons h

/-- Settles O7: there is nothing to fetch. -/
theorem stepWithoutRequestIsIdle : Obligations.StepWithoutRequestIsIdle := fun _ h => step_of_nil h

/-- Settles O8: the placed word's request is the next one, in front of the requests that were pending. -/
theorem stepRunsPlacedWord : Obligations.StepRunsPlacedWord := by
  intro s nbits w i h
  obtain rfl : decode (tableWordOf nbits w) = i := Option.some.inj h
  exact step_of_cons (State.presentNext_pending s _)

/-- Settles O10: presenting moves the request to the ports, and responding records the response. -/
theorem stepMovesOneRequest : Obligations.StepMovesOneRequest := by
  intro s t q rest hpending hstep
  obtain ⟨r, -, rfl⟩ := (step_eq_next_iff hpending).1 hstep
  exact ⟨rfl, rfl, rfl⟩

/-- Settles O15: the request answered in the first step is answered in the second one, with the same response. -/
theorem presentingAgainGivesSameResponse : Obligations.PresentingAgainGivesSameResponse := by
  intro s t q rest hpending hstep
  obtain ⟨r, hcodec, rfl⟩ := (step_eq_next_iff hpending).1 hstep
  exact (step_eq_next_iff rfl).2 ⟨r, hcodec, rfl⟩

/-! The invariant of the ports -/

/-- Settles O16: `Codec` of the request that is 0 everywhere is the response that is 0 everywhere. -/
theorem resetOutputsFollowInputs : Obligations.ResetOutputsFollowInputs := ⟨by decide, rfl, rfl⟩

/-- Settles O17: a step without a request changes nothing, and a step on a request drives `Codec` of it. -/
theorem stepKeepsOutputsFollowInputs : Obligations.StepKeepsOutputsFollowInputs := by
  intro s t hs hstep
  cases hpending : s.pending with
  | nil =>
    obtain rfl : s = t := by simpa [step_of_nil hpending] using hstep
    exact hs
  | cons q rest =>
    obtain ⟨r, hcodec, rfl⟩ := (step_eq_next_iff hpending).1 hstep
    exact hcodec

end Sys2Proof.Machine
end

section
/-! PROOFS. A run (10_state.md R28): over requests that `Codec` answers it records the responses in order and goes on
with what is pending after them, and a run that answers was over such requests. -/

namespace Sys2Proof.Machine

/-- `rs` are the responses of `Codec` to the requests `qs`, one for each, all answered. -/
abbrev CodecAnswers (qs : List Request) (rs : List Response) : Prop :=
  List.Forall₂ (fun q r => codec q = .ok r) qs rs

/-! The run over answered requests -/

/-- A run over answered requests, with `k` steps still to take after them, comes to a state that has recorded their
responses and has the later requests pending, and takes the `k` steps from there. -/
theorem runSteps_of_codecAnswers {qs : List Request} {rs : List Response} (h : CodecAnswers qs rs)
    {s : State} {later : List Request} (hpending : s.pending = qs ++ later) :
    ∃ t : State, (∀ k, runSteps (qs.length + k) s = runSteps k t) ∧
      t.observed = s.observed ++ rs ∧ t.pending = later ∧
      t.inputs = qs.getLast?.getD s.inputs ∧ t.outputs = rs.getLast?.getD s.outputs := by
  induction h generalizing s with
  | nil => exact ⟨s, fun k => by rw [List.length_nil, Nat.zero_add], by simp, hpending, rfl, rfl⟩
  | @cons q r qs rs hq _ ih =>
    have hstep : step s = .next ((s.present q (qs ++ later)).respond r) :=
      (step_eq_next_iff hpending).2 ⟨r, hq, rfl⟩
    obtain ⟨t, hrun, hobserved, hlater, hinputs, houtputs⟩ := ih (State.respond_pending (s.present q (qs ++ later)) r)
    refine ⟨t, fun k => ?_, ?_, hlater, ?_, ?_⟩
    · rw [List.length_cons, Nat.add_right_comm, runSteps_succ_of_next _ hstep, hrun]
    · rw [hobserved, State.respond_observed, State.present_observed, List.append_assoc, List.singleton_append]
    · rw [hinputs, List.getLast?_cons, Option.getD_some, State.respond_inputs, State.present_inputs]
    · rw [houtputs, List.getLast?_cons, Option.getD_some, State.respond_outputs]

/-- Settles O11: the run over answered requests with no step left to take. -/
theorem runObservesCodecOfEachRequest : Obligations.RunObservesCodecOfEachRequest := by
  intro s qs later rs hpending h
  obtain ⟨t, hrun, hframe⟩ := runSteps_of_codecAnswers h hpending
  exact ⟨t, hrun 0, hframe⟩

/-- Settles O13: after the answered requests the refused one is the next, and its step ends the run. -/
theorem runEndsAtRefusedRequest : Obligations.RunEndsAtRefusedRequest := by
  intro s qs later rs q k hpending h hq
  obtain ⟨t, hrun, -, hnext, -⟩ := runSteps_of_codecAnswers h hpending
  have hstep : step t = .refused .preconditionViolation := by
    rw [step_eq_answer_codec hnext, hq, State.answer_error]
  rw [Nat.add_assoc, Nat.add_comm 1 k, hrun, runSteps_succ_of_refused k hstep]

/-! What a run that answers has recorded -/

theorem runSteps_succ_eq_next_iff {k : Nat} {s t : State} :
    runSteps (k + 1) s = .next t ↔ ∃ s', step s = .next s' ∧ runSteps k s' = .next t := by
  rw [runSteps]
  cases step s <;> simp

/-- A run that answers was over requests that `Codec` answers. -/
theorem exists_codecAnswers_of_runSteps_eq_next {qs later : List Request} {s t : State}
    (hpending : s.pending = qs ++ later) (hrun : runSteps qs.length s = .next t) : ∃ rs, CodecAnswers qs rs := by
  induction qs generalizing s with
  | nil => exact ⟨[], .nil⟩
  | cons q qs ih =>
    obtain ⟨s', hstep, hrest⟩ := runSteps_succ_eq_next_iff.1 hrun
    obtain ⟨r, hq, rfl⟩ := (step_eq_next_iff hpending).1 hstep
    obtain ⟨rs, hrs⟩ := ih (State.respond_pending _ r) hrest
    exact ⟨r :: rs, .cons hq hrs⟩

/-- With nothing recorded before, a run that answers has recorded `Codec` of each of its requests. -/
theorem codecAnswers_observed {s t : State} (hobserved : s.observed = [])
    (hrun : runSteps s.pending.length s = .next t) : CodecAnswers s.pending t.observed := by
  have hpending := (List.append_nil s.pending).symm
  obtain ⟨rs, hrs⟩ := exists_codecAnswers_of_runSteps_eq_next hpending hrun
  obtain ⟨t', hrun', hrecorded, -⟩ := runSteps_of_codecAnswers hrs hpending
  obtain rfl : t' = t := by simpa [runSteps, hrun] using (hrun' 0).symm
  rwa [hrecorded, hobserved, List.nil_append]

/-! Reordering -/

/-- A request's outcome of `Codec` does not depend on its place, so the pairs are a map over the requests. -/
theorem zip_map_ok_eq {qs : List Request} {rs : List Response} (h : CodecAnswers qs rs) :
    (qs.zip rs).map (Prod.map id Except.ok) = qs.map fun q => (q, codec q) := by
  induction h with
  | nil => rfl
  | cons hq _ ih => simp [ih, hq]

/-- Permuted requests have permuted pairs of request and response. -/
theorem zip_perm_of_codecAnswers {qs qs' : List Request} {rs rs' : List Response} (hperm : qs.Perm qs')
    (h : CodecAnswers qs rs) (h' : CodecAnswers qs' rs') : (qs.zip rs).Perm (qs'.zip rs') := by
  have hinj : Function.Injective (Prod.map id Except.ok : Request × Response → Request × Except Refusal Response) :=
    Function.injective_id.prodMap fun _ _ => Except.ok.inj
  rw [← List.map_perm_map_iff hinj, zip_map_ok_eq h, zip_map_ok_eq h']
  exact hperm.map _

/-- Settles O12: each run has recorded `Codec` of each request, and those pairs are permuted with the requests. -/
theorem reorderingKeepsEachResponse : Obligations.ReorderingKeepsEachResponse := by
  rintro s s' t t' _ _ rfl rfl hperm hs hs' hrun hrun'
  have hcodec := codecAnswers_observed hs hrun
  have hcodec' := codecAnswers_observed hs' hrun'
  exact ⟨zip_perm_of_codecAnswers hperm hcodec hcodec', hcodec.length_eq.symm, hcodec'.length_eq.symm⟩

end Sys2Proof.Machine
end

section
/-! PROOFS. Second derivations of the sub-blocks' values: the encoder without the clear (40_encode.md R70,
90_conflicts.md C1), the decoder's placed byte (41_decode.md R75, R76, C6), and the bound of the indices (42_raw.md R83). -/

namespace Sys2Proof.Machine

/-! The datapath without the clear -/

theorem byte_eq_mkCrumb_halves (b : Byte) : b = mkCrumb (b.extractLsb' 4 4) (b.extractLsb' 0 4) :=
  (mkCrumb_crumbIndex_crumbData b).symm

theorem index_shiftLeft_four (idx : Index) : idx <<< 4 = mkCrumb (indexField idx) 0#4 := by
  revert idx; decide

theorem mkCrumb_or (a b c d : Nibble) : mkCrumb a b ||| mkCrumb c d = mkCrumb (a ||| c) (b ||| d) :=
  BitVec.or_append

theorem mkCrumb_left_inj {a b d : Nibble} : mkCrumb a d = mkCrumb b d ↔ a = b :=
  ⟨fun h => by simpa using congrArg crumbIndex h, fun h => h ▸ rfl⟩

/-- The low half of the shifted byte is the nibble of the index before the clear, which keeps it (R62, R63). -/
theorem encShifted_low {idx : Index} (h : idx.toNat < 16) (src : Source) :
    (encShifted idx src).extractLsb' 0 4 = nibbleAt src idx.toNat :=
  (and_lowMask_nibbles _).2.symm.trans (encMasked_low h src)

/-- R70: for an even index the next nibble, not cleared, is ORed into the index field. -/
theorem encShifted_or_shiftLeft_of_even {idx : Index} (h : idx.toNat < 16) (heven : idx.toNat % 2 = 0) (src : Source) :
    encShifted idx src ||| (idx <<< 4) =
      mkCrumb (indexField idx ||| nibbleAt src (idx.toNat + 1)) (nibbleAt src idx.toNat) := by
  rw [byte_eq_mkCrumb_halves (encShifted idx src), encShifted_high_of_even h heven, encShifted_low h,
    index_shiftLeft_four, mkCrumb_or, BitVec.or_zero, BitVec.or_comm]

/-- Settles O31: the two Crumbs have the same data, so they agree exactly where their index fields do. -/
theorem unmaskedDatapathCorruptsIndex : Obligations.UnmaskedDatapathCorruptsIndex := by
  intro idx src h heven
  have hunmasked := encShifted_or_shiftLeft_of_even h heven src
  refine ⟨hunmasked, ?_⟩
  rw [hunmasked, encCrumb_eq_crumbClosedForm h]
  exact mkCrumb_left_inj

/-! The placed byte -/

/-- R75: the low bit of the index is its parity. -/
theorem decIndex_and_one_toNat (c : Crumb) : (decIndex c &&& 1).toNat = (crumbIndex c).toNat % 2 := by
  rw [BitVec.toNat_and, decIndex_toNat]
  exact Nat.and_one_is_mod _

theorem decByte_of_even {c : Crumb} (h : (crumbIndex c).toNat % 2 = 0) : decByte c = 0b0000#4 ++ crumbData c := by
  have hlow : ∀ n : Nibble, n.setWidth 8 = 0b0000#4 ++ n := by decide
  rw [decByte, decIndex_and_one_toNat, h, Nat.zero_mul, BitVec.shiftLeft_zero, decData_eq_crumbData, hlow]

theorem decByte_of_odd {c : Crumb} (h : (crumbIndex c).toNat % 2 = 1) : decByte c = crumbData c ++ 0b0000#4 := by
  have hhigh : ∀ n : Nibble, n.setWidth 8 <<< (1 * 4) = n ++ 0b0000#4 := by decide
  rw [decByte, decIndex_and_one_toNat, h, decData_eq_crumbData, hhigh]

/-- R76: the shift up at 8 bits drops the index field, and the shift down puts the data back for an even index only;
checked for each of the 256 Crumbs. -/
theorem decByteChain_eq_decByte (c : Crumb) : decByteChain c = decByte c := by
  revert c; decide

/-- Settles O33: the placed byte at each parity of the index, and the chain that gives the same byte. -/
theorem decoderDerivationsAgree : Obligations.DecoderDerivationsAgree := by
  intro c
  refine ⟨?_, decByteChain_eq_decByte c⟩
  split
  case isTrue heven => exact decByte_of_even heven
  case isFalse hodd => exact decByte_of_odd (Nat.mod_two_ne_zero.1 hodd)

/-! The bound of the indices -/

theorem indexValid_eq_not_encInvalid (idx : Index) : indexValid idx = !encInvalid idx :=
  (Bool.not_not _).symm

theorem indexValid_eq_true_iff (idx : Index) : indexValid idx = true ↔ idx.toNat < 16 := by
  rw [indexValid_eq_not_encInvalid, Bool.not_eq_true', ← Bool.not_eq_true, encInvalid_eq_true_iff, Nat.not_le]

/-- Settles O37: validity is the negated bounds test, and that is the comparison with 16. -/
theorem maxNibbleIndexBoundsValidIndices : Obligations.MaxNibbleIndexBoundsValidIndices :=
  ⟨rfl, fun idx => ⟨indexValid_eq_true_iff idx, indexValid_eq_not_encInvalid idx⟩⟩

end Sys2Proof.Machine
end
